-- ==== Sys2Proof/Word.lean ====
section
/-! DEFINITION. The words the block handles: bytes of the channel and of the memory spaces
(20_memory R68), and command words (30_encoding R80). -/

namespace Sys2Proof

/-- One byte of the channel or of a memory space (R60, R66). -/
abbrev Byte := BitVec 8

/-- One command word of the command port (R80). -/
abbrev CmdWord := BitVec 32

end Sys2Proof
end

