-- ==== Sys2Proof/Syntax.lean ====
section
/-! DEFINITION. The command language: one constructor of `Instr` per row of
spec/opcode_table.json, and the two enumerations its operands use. -/

namespace Sys2Proof

/-- The two scan formats (10_state R33; 30_encoding R88). -/
inductive ScanFormat where
  | normal
  | oscan1
  deriving DecidableEq, Repr, Inhabited

/-- The sixteen TAP states (10_state R36), in the order of their codes (30_encoding R87). -/
inductive Tap where
  | drExit2 | drExit1 | drShift | drPause
  | irSelect | drUpdate | drCapture | drSelect
  | irExit2 | irExit1 | irShift | irPause
  | idle | irUpdate | irCapture | reset
  deriving DecidableEq, Repr, Inhabited

/-- The nineteen commands (30_encoding R83). Numeric operands are natural numbers; the range each
field of the command word admits is `Instr.WellFormed`. -/
inductive Instr where
  /-- `INIT` (42_mode R165) -/
  | init
  /-- `SCAN ir, end, has_out, has_in, num_fields, bit_count` (43_tap_scan R200, 30_encoding R82) -/
  | scan (ir : Bool) (endState : Tap) (hasOut hasIn : Bool) (numFields bitCount : Nat)
  /-- `PININIT` (40_packet_encoder R120) -/
  | pininit
  /-- `ESCAPE` (R121) -/
  | escape
  /-- `CYCLE tms, tdi` (R122) -/
  | cycle (tms tdi : Bool)
  /-- `FMTSW target` (R123) -/
  | fmtsw (target : ScanFormat)
  /-- `CHECK` (R124) -/
  | check
  /-- `ZBS repeat` (41_bitscan R142) -/
  | zbs (repeats : Nat)
  /-- `NZBS amount` (R143) -/
  | nzbs (amount : Nat)
  /-- `ECM level` (R144) -/
  | ecm (level : Nat)
  /-- `TWOPART opcode, operand` (R145) -/
  | twopart (opcode operand : Nat)
  /-- `WANTRES value` (42_mode R160) -/
  | wantres (value : Bool)
  /-- `SETIDLE` (R161) -/
  | setidle
  /-- `E2WTEST` (R162) -/
  | e2wtest
  /-- `E2W` (R163) -/
  | e2w
  /-- `OSCAN1` (R164) -/
  | oscan1
  /-- `TAPMOVE goal` (43_tap_scan R190) -/
  | tapmove (goal : Tap)
  /-- `TRANS len` (41_bitscan R140); the string itself is on the `STR` space -/
  | trans (len : Nat)
  /-- `SETTAP state` (43_tap_scan R217) -/
  | settap (state : Tap)
  deriving DecidableEq, Repr

end Sys2Proof
end

