-- ==== Sys2Proof/Config.lean ====
section
/-! DEFINITION. What is fixed for one block and no command changes (00_scope R7, 10_state R45):
the parameters with a value, and the OPEN ones, which are opaque so that nothing can lean on a
value of theirs (92_eei_decisions D22, D23; log entries 5 and 6). -/

namespace Sys2Proof.Config

/-- `RX_CAPACITY` (R7). -/
def rxCapacity : Nat := 1000
/-- `MAX_PREAMBLE` (R7). -/
def maxPreamble : Nat := 6
/-- `MAX_POSTAMBLE` (R7). -/
def maxPostamble : Nat := 2
/-- `MAX_SCAN_BITS`, derived as R8 requires. -/
def maxScanBits : Nat := rxCapacity - maxPreamble - maxPostamble
/-- `MAX_BITSCAN` (R7). -/
def maxBitscan : Nat := 10
/-- `RESP_BIT` (R7, 20_memory R65). -/
def respBit : Nat := 7
/-- `MAX_TMS_STRING` (R7). -/
def maxTmsString : Nat := 1023
/-- The identity string of the block (00_scope R2). -/
def identity : String := "cjtag-arc-openocd-v7"

/-- The OPEN parameters a command's steps read (R7; 92 D9, D10, D23): the two star-command opcodes
and their operands, any natural numbers, and the two OPEN Booleans. -/
structure Params where
  stfmt : Nat
  stmc : Nat
  oscan1Param : Nat
  exitCmdLvl : Nat
  oscan1Switch : Bool
  e2wTouch : Bool
  deriving DecidableEq, Repr, Inhabited

/-- The parameters of this block: no value is chosen (log entry 6). -/
opaque params : Params

/-- The `k`-th response byte the adapter answers when the model has been given no answer: any byte
(60_exceptions R243; log entry 5). -/
opaque freeResponse : Nat → Byte

/-- A position at which the four cycle patterns of one `(fmt, wr)` do not all agree (30_encoding R94). -/
def variesAt (pattern : Bool → Bool → List Byte) (k : Nat) : Bool :=
  !((pattern false false)[k]? == (pattern false true)[k]? &&
    (pattern false false)[k]? == (pattern true false)[k]? &&
    (pattern false false)[k]? == (pattern true true)[k]?)

/-- `CYCLE_BYTES(fmt, wr, tms, tdi)` and `CYCLE_LEN`, with the constraints of 30_encoding R94 and of
the table of 92_eei_decisions. The defaults only show that the constraints can be met. -/
structure CycleTable where
  len : Nat := 1
  bytes : ScanFormat → Bool → Bool → Bool → List Byte :=
    fun _ _ tms tdi => [BitVec.ofNat 8 (2 * tms.toNat + tdi.toNat)]
  len_pos : 0 < len := by decide
  length_eq : ∀ fmt wr tms tdi, (bytes fmt wr tms tdi).length = len := by intros; rfl
  inj : ∀ fmt wr tms tdi tms' tdi',
    bytes fmt wr tms tdi = bytes fmt wr tms' tdi' → tms = tms' ∧ tdi = tdi' := by
      intro _ _ tms tdi tms' tdi' h; revert tms tdi tms' tdi'; decide
  four_variable : ∀ wr, ((List.range len).filter (variesAt (bytes .oscan1 wr))).length ≤ 4 := by decide
  deriving Inhabited

/-- `ESCAPE_LEN` and `ESCAPE_BYTES` (30_encoding R93, R97). -/
structure EscapeTable where
  bytes : List Byte := List.replicate 27 0
  length_eq : bytes.length = 27 ∨ bytes.length = 28 := by decide
  deriving Inhabited

/-- `PIN_INIT_BYTES`: any non-empty byte string (30_encoding R97, 92 D22). -/
structure PinInitTable where
  bytes : List Byte := [0]
  ne_nil : bytes ≠ [] := by decide
  deriving Inhabited

/-- `FMTSW_BYTES`: two different strings of `FMTSW_LEN` = 18 bytes (R7, 30_encoding R95). -/
structure FormatSwitchTable where
  bytes : ScanFormat → List Byte :=
    fun f => List.replicate 18 (match f with | .normal => 0 | .oscan1 => 1)
  length_eq : ∀ f, (bytes f).length = 18 := by intro f; cases f <;> decide
  differ : bytes .normal ≠ bytes .oscan1 := by decide
  deriving Inhabited

/-- `CHECK_BYTES`: two non-empty byte strings (30_encoding R96, 92 D22). -/
structure CheckTable where
  bytes : ScanFormat → List Byte := fun _ => [0]
  ne_nil : ∀ f, bytes f ≠ [] := by intro f; cases f <;> decide
  deriving Inhabited

opaque cycleTable : CycleTable
opaque escapeTable : EscapeTable
opaque pinInitTable : PinInitTable
opaque formatSwitchTable : FormatSwitchTable
opaque checkTable : CheckTable

end Sys2Proof.Config
end

