-- ==== Sys2Proof/WellFormed.lean ====
section
/-! DEFINITION. Which instructions have a command word: each numeric operand fits its field
(30_encoding R81, R82, R86). Limits the block checks when it runs a command are no part of this. -/

namespace Sys2Proof

/-- Every operand fits the field the formats of R81 and R82 give it. -/
def Instr.wellFormed : Instr → Bool
  | .scan _ _ _ _ numFields bitCount => decide (numFields < 2 ^ 4) && decide (bitCount < 2 ^ 16)
  | .zbs r => decide (r < 2 ^ 4)
  | .nzbs a => decide (a < 2 ^ 4)
  | .ecm l => decide (l < 2 ^ 4)
  | .twopart o p => decide (o < 2 ^ 4) && decide (p < 2 ^ 4)
  | .trans len => decide (len ≤ Config.maxTmsString)
  | .init => true
  | .pininit => true
  | .escape => true
  | .cycle _ _ => true
  | .fmtsw _ => true
  | .check => true
  | .wantres _ => true
  | .setidle => true
  | .e2wtest => true
  | .e2w => true
  | .oscan1 => true
  | .tapmove _ => true
  | .settap _ => true

/-- `Instr.wellFormed` as a proposition. -/
abbrev Instr.WellFormed (i : Instr) : Prop := i.wellFormed = true

end Sys2Proof
end

