-- ==== Sys2Proof/Decode.lean ====
section
/-! DEFINITION. The decoder of command words (30_encoding R80 to R88, R104) and after it the encoder,
both written from the tables of spec/30_encoding.md; the opcode table of the spec as data. -/

namespace Sys2Proof

/-- The field `w[hi:lo]` of a command word, an unsigned number (00_scope R9). -/
def field (w : CmdWord) (hi lo : Nat) : Nat := w.toNat / 2 ^ lo % 2 ^ (hi - lo + 1)

/-- The code of a TAP state (30_encoding R87). -/
def Tap.code : Tap → Nat
  | .drExit2 => 0x0 | .drExit1 => 0x1 | .drShift => 0x2 | .drPause => 0x3
  | .irSelect => 0x4 | .drUpdate => 0x5 | .drCapture => 0x6 | .drSelect => 0x7
  | .irExit2 => 0x8 | .irExit1 => 0x9 | .irShift => 0xA | .irPause => 0xB
  | .idle => 0xC | .irUpdate => 0xD | .irCapture => 0xE | .reset => 0xF

/-- The TAP state of a 4-bit code (R87); every code names one (R86). -/
def Tap.ofCode : Nat → Tap
  | 0x0 => .drExit2 | 0x1 => .drExit1 | 0x2 => .drShift | 0x3 => .drPause
  | 0x4 => .irSelect | 0x5 => .drUpdate | 0x6 => .drCapture | 0x7 => .drSelect
  | 0x8 => .irExit2 | 0x9 => .irExit1 | 0xA => .irShift | 0xB => .irPause
  | 0xC => .idle | 0xD => .irUpdate | 0xE => .irCapture | _ => .reset

/-- The code of a scan format (R88). -/
def ScanFormat.code : ScanFormat → Nat
  | .normal => 0
  | .oscan1 => 1

/-- The scan format of a 1-bit code (R88). -/
def ScanFormat.ofCode : Nat → ScanFormat
  | 0 => .normal
  | _ => .oscan1

/-- Why a word is no command (R84, R85). -/
inductive DecodeError where
  /-- opcode 0x13 to 0x1F (R84) -/
  | reservedOpcode
  /-- a legal opcode with a bit set that its format reserves (R85) -/
  | reservedBits
  deriving DecidableEq, Repr

/-- `i` when the reserved bits, read as the number `reserved`, are all zero (R81, R85). -/
def whenZero (reserved : Nat) (i : Instr) : Except DecodeError Instr :=
  if reserved = 0 then .ok i else .error .reservedBits

/-- Format `F0`: `[31:5] = 0` (R81). -/
def decodeF0 (w : CmdWord) (i : Instr) : Except DecodeError Instr := whenZero (field w 31 5) i

/-- Format `FB`: `[5]` is the operand, `[31:6] = 0` (R81). -/
def decodeFB (w : CmdWord) (mk : Nat → Instr) : Except DecodeError Instr :=
  whenZero (field w 31 6) (mk (field w 5 5))

/-- Format `FC`: `[5]` and `[6]` are the operands, `[31:7] = 0` (R81). -/
def decodeFC (w : CmdWord) (mk : Nat → Nat → Instr) : Except DecodeError Instr :=
  whenZero (field w 31 7) (mk (field w 5 5) (field w 6 6))

/-- Format `F4`: `[8:5]` is the operand, `[31:9] = 0` (R81). -/
def decodeF4 (w : CmdWord) (mk : Nat → Instr) : Except DecodeError Instr :=
  whenZero (field w 31 9) (mk (field w 8 5))

/-- Format `F44`: `[8:5]` and `[12:9]` are the operands, `[31:13] = 0` (R81). -/
def decodeF44 (w : CmdWord) (mk : Nat → Nat → Instr) : Except DecodeError Instr :=
  whenZero (field w 31 13) (mk (field w 8 5) (field w 12 9))

/-- Format `FS`: the scan request; no bit is reserved (R82). -/
def decodeFS (w : CmdWord) : Except DecodeError Instr :=
  .ok (.scan (field w 5 5 == 1) (.ofCode (field w 9 6)) (field w 10 10 == 1) (field w 11 11 == 1)
    (field w 15 12) (field w 31 16))

/-- Format `FSTR`: `[14:5]` is the length, `[31:15] = 0` (R81). -/
def decodeFSTR (w : CmdWord) (mk : Nat → Instr) : Except DecodeError Instr :=
  whenZero (field w 31 15) (mk (field w 14 5))

/-- The decoder: the opcode in bits `[4:0]` selects the format (R80, R83). Total (R104). -/
def decode (w : CmdWord) : Except DecodeError Instr :=
  match field w 4 0 with
  | 0x00 => decodeF0 w .init
  | 0x01 => decodeFS w
  | 0x02 => decodeF0 w .pininit
  | 0x03 => decodeF0 w .escape
  | 0x04 => decodeFC w fun tms tdi => .cycle (tms == 1) (tdi == 1)
  | 0x05 => decodeFB w fun b => .fmtsw (.ofCode b)
  | 0x06 => decodeF0 w .check
  | 0x07 => decodeF4 w .zbs
  | 0x08 => decodeF4 w .nzbs
  | 0x09 => decodeF4 w .ecm
  | 0x0A => decodeF44 w .twopart
  | 0x0B => decodeFB w fun b => .wantres (b == 1)
  | 0x0C => decodeF0 w .setidle
  | 0x0D => decodeF0 w .e2wtest
  | 0x0E => decodeF0 w .e2w
  | 0x0F => decodeF0 w .oscan1
  | 0x10 => decodeF4 w fun g => .tapmove (.ofCode g)
  | 0x11 => decodeFSTR w .trans
  | 0x12 => decodeF4 w fun t => .settap (.ofCode t)
  | _ => .error .reservedOpcode

/-- The command word as a number: opcode, then each field at its place (R81 to R83). -/
def encodeNat : Instr → Nat
  | .init => 0x00
  | .scan ir e hasOut hasIn numFields bitCount =>
    0x01 + ir.toNat * 2 ^ 5 + e.code * 2 ^ 6 + hasOut.toNat * 2 ^ 10 + hasIn.toNat * 2 ^ 11
      + numFields * 2 ^ 12 + bitCount * 2 ^ 16
  | .pininit => 0x02
  | .escape => 0x03
  | .cycle tms tdi => 0x04 + tms.toNat * 2 ^ 5 + tdi.toNat * 2 ^ 6
  | .fmtsw target => 0x05 + target.code * 2 ^ 5
  | .check => 0x06
  | .zbs r => 0x07 + r * 2 ^ 5
  | .nzbs a => 0x08 + a * 2 ^ 5
  | .ecm l => 0x09 + l * 2 ^ 5
  | .twopart opcode operand => 0x0A + opcode * 2 ^ 5 + operand * 2 ^ 9
  | .wantres value => 0x0B + value.toNat * 2 ^ 5
  | .setidle => 0x0C
  | .e2wtest => 0x0D
  | .e2w => 0x0E
  | .oscan1 => 0x0F
  | .tapmove goal => 0x10 + goal.code * 2 ^ 5
  | .trans len => 0x11 + len * 2 ^ 5
  | .settap state => 0x12 + state.code * 2 ^ 5

/-- The encoder: the command word of a well-formed instruction. -/
def encode (i : Instr) : CmdWord := BitVec.ofNat 32 (encodeNat i)

/-- The mnemonic of an instruction, as spec/opcode_table.json spells it (R83). -/
def Instr.mnemonic : Instr → String
  | .init => "INIT"
  | .scan _ _ _ _ _ _ => "SCAN"
  | .pininit => "PININIT"
  | .escape => "ESCAPE"
  | .cycle _ _ => "CYCLE"
  | .fmtsw _ => "FMTSW"
  | .check => "CHECK"
  | .zbs _ => "ZBS"
  | .nzbs _ => "NZBS"
  | .ecm _ => "ECM"
  | .twopart _ _ => "TWOPART"
  | .wantres _ => "WANTRES"
  | .setidle => "SETIDLE"
  | .e2wtest => "E2WTEST"
  | .e2w => "E2W"
  | .oscan1 => "OSCAN1"
  | .tapmove _ => "TAPMOVE"
  | .trans _ => "TRANS"
  | .settap _ => "SETTAP"

/-- One row of the opcode table: a word is the row's when `w &&& mask = pattern`. -/
structure OpcodeRow where
  mnemonic : String
  pattern : CmdWord
  mask : CmdWord
  deriving DecidableEq, Repr

/-- spec/opcode_table.json: mnemonic, match and mask of each row. -/
def opcodeTable : List OpcodeRow :=
  [ ⟨"INIT", 0x00000000, 0xFFFFFFFF⟩, ⟨"SCAN", 0x00000001, 0x0000001F⟩,
    ⟨"PININIT", 0x00000002, 0xFFFFFFFF⟩, ⟨"ESCAPE", 0x00000003, 0xFFFFFFFF⟩,
    ⟨"CYCLE", 0x00000004, 0xFFFFFF9F⟩, ⟨"FMTSW", 0x00000005, 0xFFFFFFDF⟩,
    ⟨"CHECK", 0x00000006, 0xFFFFFFFF⟩, ⟨"ZBS", 0x00000007, 0xFFFFFE1F⟩,
    ⟨"NZBS", 0x00000008, 0xFFFFFE1F⟩, ⟨"ECM", 0x00000009, 0xFFFFFE1F⟩,
    ⟨"TWOPART", 0x0000000A, 0xFFFFE01F⟩, ⟨"WANTRES", 0x0000000B, 0xFFFFFFDF⟩,
    ⟨"SETIDLE", 0x0000000C, 0xFFFFFFFF⟩, ⟨"E2WTEST", 0x0000000D, 0xFFFFFFFF⟩,
    ⟨"E2W", 0x0000000E, 0xFFFFFFFF⟩, ⟨"OSCAN1", 0x0000000F, 0xFFFFFFFF⟩,
    ⟨"TAPMOVE", 0x00000010, 0xFFFFFE1F⟩, ⟨"TRANS", 0x00000011, 0xFFFF801F⟩,
    ⟨"SETTAP", 0x00000012, 0xFFFFFE1F⟩ ]

/-- The command word whose low `nbits` bits are `w` and whose other bits are zero. A word reaches the
command port whole, so no byte order of it arises (R80). -/
def tableWord (nbits w : Nat) : CmdWord := BitVec.ofNat 32 (w % 2 ^ nbits)

/-- The instruction the decoder reads from a row's word, numbered as the table numbers its bits. -/
def decodeTableWord (nbits w : Nat) : Option Instr :=
  match decode (tableWord nbits w) with
  | .ok i => some i
  | .error _ => none

end Sys2Proof
end

