-- ==== Sys2Proof/Machine/State.lean ====
section
/-! DEFINITION. Everything the spec gives the block, as plain data: the registers of the LinkContext
(10_state R32), the four memory spaces (20_memory R60), the ports (30_encoding R80, R93, R101;
60_exceptions R242), the ghost state (10_state R39, R41), and the fields that are the model's own. -/

namespace Sys2Proof.Machine

/-- A memory space: the bytes that differ from `unlistedByte`, by strictly rising index. -/
abbrev Memory := List Host.Cell

/-- What an index that a memory does not list reads as (DESIGN CHOICE, unsafe: log entry 4). -/
def unlistedByte : Byte := 0

/-- The canonical form of a memory: indices strictly rising, no entry equal to `unlistedByte`. -/
abbrev Memory.wf (m : Memory) : Prop :=
  List.Pairwise (fun a b : Host.Cell => a.1 < b.1) m ∧ ∀ c ∈ m, c.2 ≠ unlistedByte

/-- Every listed index is below `n`. -/
abbrev Memory.below (n : Nat) (m : Memory) : Prop := ∀ c ∈ m, c.1 < n

/-- The address spaces of 20_memory R60. -/
inductive Space where
  | rx
  | out
  | inp
  | str
  deriving DecidableEq, Repr

/-- One command as the host issues it: the word on the command port (R80) and the host buffers it
supplies with it (R60, R71). -/
structure Request where
  word : CmdWord
  out : Memory
  inp : Memory
  str : Memory
  deriving DecidableEq, Repr

/-- The channel tokens (30_encoding R93). -/
inductive Token where
  | pinInit
  | esc
  | cyc (fmt : ScanFormat) (wr tms tdi : Bool)
  | fsw (fmt : ScanFormat)
  | chk (fmt : ScanFormat)
  deriving DecidableEq, Repr

/-- What the block does on the channel, in order: token writes and reads (00_scope R10, 20_memory R73). -/
inductive ChanEvent where
  | write (t : Token)
  | read (n : Nat)
  deriving DecidableEq, Repr

/-- The result codes (30_encoding R101). -/
inductive ResultCode where
  | ok
  | rejMultiField
  | rejOversize
  | rejIllegalCmd
  | rejBadTmsString
  | faultZbsRange
  | faultNzbsRange
  | refusedUninit
  | refusedFaulted
  deriving DecidableEq, Repr

/-- One entry of the result port (R101). -/
structure Result where
  code : ResultCode
  value : Bool
  deriving DecidableEq, Repr

/-- One entry of the log port (60_exceptions R242). -/
structure LogEntry where
  code : ResultCode
  info : Nat
  deriving DecidableEq, Repr

/-- The state of the block. -/
structure State where
  /-- `scan_format` (R33) -/
  scanFormat : ScanFormat
  /-- `want_result` (R34) -/
  wantResult : Bool
  /-- `tx_bit_count` (R35) -/
  txBitCount : BitVec 32
  /-- `tap_state` (R36) -/
  tapState : Tap
  /-- `initialized` (R37) -/
  initialized : Bool
  /-- `fault` (R38) -/
  fault : BitVec 8
  /-- the receive buffer `RX` (R60) -/
  rx : Memory
  /-- the host's `OUT` buffer of the current command (R60) -/
  out : Memory
  /-- the host's `IN` buffer of the current command (R60) -/
  inp : Memory
  /-- the host's `STR` space of the current command (R60) -/
  str : Memory
  /-- the command port: requests the host has issued and the block has not taken, oldest first
  (R80; log entry 1) -/
  cmdPort : List Request
  /-- the channel: every token written and every read made, oldest first (R10, R246) -/
  chan : List ChanEvent
  /-- the log port, oldest first (R242) -/
  log : List LogEntry
  /-- the result port: the results of the ended commands, oldest first (R101; log entry 11) -/
  results : List Result
  /-- ghost `phys_set` (R39): the members, in the order of `Tap.all` -/
  physSet : List Tap
  /-- ghost `adapter_pending` (R41) -/
  adapterPending : Nat
  /-- ghost `chan_misaligned`: set by what R41 names and by the reads of 70_reset_and_hazards R266 (log entry 9) -/
  chanMisaligned : Bool
  /-- the model's own: what R41 itself names has set `chan_misaligned` (log entry 9) -/
  countMisaligned : Bool
  /-- the model's own: response bytes the adapter will deliver next, an input (R243; log entry 5) -/
  adapterIn : List Byte
  /-- the model's own: how many free response bytes have been drawn (log entry 5) -/
  drawn : Nat
  /-- the model's own: the OPEN parameters, which no step changes (R45; log entry 6) -/
  params : Config.Params
  deriving DecidableEq, Repr

/-- A step of this block never stops the machine: what the spec calls a fault is a state of the block
(60_exceptions R236), and no rule reaches an index outside its space (20_memory R60, R64). So the type
has no constructor: nobody raises one (safe). -/
inductive Fault
  deriving DecidableEq, Repr

/-- Reasons for no meaning. -/
inductive Refusal where
  /-- raised by an arm of `exec` for an instruction that has no meaning yet; safe. No arm raises it. -/
  | notModelled (mnemonic : String)
  deriving DecidableEq, Repr

/-- The sixteen TAP states, in the order of their codes (30_encoding R87). -/
def Tap.all : List Tap :=
  [.drExit2, .drExit1, .drShift, .drPause, .irSelect, .drUpdate, .drCapture, .drSelect,
   .irExit2, .irExit1, .irShift, .irPause, .idle, .irUpdate, .irCapture, .reset]

/-- The state after block reset, for the values the spec leaves open (10_state R43 "any value"):
the four registers, `RX` and the parameters. -/
def State.blockReset (fmt : ScanFormat) (wr : Bool) (tx : BitVec 32) (tap : Tap) (rx : Memory)
    (params : Config.Params) : State where
  scanFormat := fmt
  wantResult := wr
  txBitCount := tx
  tapState := tap
  initialized := false
  fault := 0
  rx := rx
  out := []
  inp := []
  str := []
  cmdPort := []
  chan := []
  log := []
  results := []
  physSet := Tap.all
  adapterPending := 0
  chanMisaligned := false
  countMisaligned := false
  adapterIn := []
  drawn := 0
  params := params

/-- The machine after block reset (R43, R260), with the model's choice for each "any value"
(DESIGN CHOICE, unsafe: log entries 3 and 4). -/
def State.reset : State := State.blockReset .normal false 0 .drExit2 [] Config.params

end Sys2Proof.Machine
end

