-- ==== Sys2Proof/Machine/Channel.lean ====
section
/-! DEFINITION. The channel's tokens as bytes (30_encoding R93 to R97), how many response bytes each
produces (R93, 10_state R41), and the event streams the transition helpers make (41_bitscan R140, R141). -/

namespace Sys2Proof.Machine

/-- The bytes of a token: the OPEN tables (R93; log entry 6). -/
def Token.bytes : Token → List Byte
  | .pinInit => Config.pinInitTable.bytes
  | .esc => Config.escapeTable.bytes
  | .cyc fmt wr tms tdi => Config.cycleTable.bytes fmt wr tms tdi
  | .fsw fmt => Config.formatSwitchTable.bytes fmt
  | .chk fmt => Config.checkTable.bytes fmt

/-- How many response bytes the adapter produces for a token (R93, R41). -/
def Token.responses : Token → Nat
  | .pinInit => 1
  | .esc => 0
  | .cyc _ _ _ _ => 1
  | .fsw _ => 0
  | .chk _ => 0

/-- The bytes one event puts on the channel. -/
def ChanEvent.bytes : ChanEvent → List Byte
  | .write t => t.bytes
  | .read _ => []

/-- The byte stream of the channel (20_memory R66). -/
def channelBytes (chan : List ChanEvent) : List Byte := chan.flatMap ChanEvent.bytes

/-- Whether an event writes a `CYC` token. -/
def ChanEvent.isCycle : ChanEvent → Bool
  | .write (.cyc _ _ _ _) => true
  | .write .pinInit => false
  | .write .esc => false
  | .write (.fsw _) => false
  | .write (.chk _) => false
  | .read _ => false

/-- How many response bytes an event reads. -/
def ChanEvent.bytesRead : ChanEvent → Nat
  | .write _ => 0
  | .read n => n

/-- The number of response bytes a part of the channel reads. -/
def readCount (chan : List ChanEvent) : Nat := (chan.map ChanEvent.bytesRead).sum

/-- The number of `CYC` tokens in a part of the channel. -/
def cycleCount (chan : List ChanEvent) : Nat := chan.countP ChanEvent.isCycle

/-- The events of `transitions_immediate`: each cycle at TDI 0, and a one-byte read after it (R140). -/
def immediateEvents (fmt : ScanFormat) (wr : Bool) (syms : List Bool) : List ChanEvent :=
  syms.flatMap fun t => [.write (.cyc fmt wr t false), .read 1]

/-- The events of `transitions_deferred`: each cycle at TDI 0, no read (R141). -/
def deferredEvents (fmt : ScanFormat) (wr : Bool) (syms : List Bool) : List ChanEvent :=
  syms.map fun t => .write (.cyc fmt wr t false)

/-- The first `n` response bytes: the answers given, then the free value, counted from `drawn`
(60_exceptions R243; log entry 5). -/
def responses (adapterIn : List Byte) (drawn n : Nat) : List Byte :=
  adapterIn.take n ++ (List.range (n - adapterIn.length)).map fun k => Config.freeResponse (drawn + k)

end Sys2Proof.Machine
end

