-- ==== Sys2Proof/Machine/Flags.lean ====
section
/-! DEFINITION. The Boolean flags (10_state R46), the codes of results and faults (30_encoding R101)
and the status port (R100). The block has no condition codes. -/

namespace Sys2Proof.Machine

/-- The 8-bit code of a result (R101). -/
def ResultCode.toByte : ResultCode → BitVec 8
  | .ok => 0x00
  | .rejMultiField => 0x01
  | .rejOversize => 0x02
  | .rejIllegalCmd => 0x03
  | .rejBadTmsString => 0x04
  | .faultZbsRange => 0x10
  | .faultNzbsRange => 0x11
  | .refusedUninit => 0x20
  | .refusedFaulted => 0x21

/-- The four outcomes of a command (60_exceptions R230). -/
inductive OutcomeKind where
  | completed
  | rejected
  | faulted
  | refused
  deriving DecidableEq, Repr

/-- The outcome a result code reports (R230, R101). -/
def ResultCode.kind : ResultCode → OutcomeKind
  | .ok => .completed
  | .rejMultiField => .rejected
  | .rejOversize => .rejected
  | .rejIllegalCmd => .rejected
  | .rejBadTmsString => .rejected
  | .faultZbsRange => .faulted
  | .faultNzbsRange => .faulted
  | .refusedUninit => .refused
  | .refusedFaulted => .refused

/-- The non-zero test of `fault` (R38, R46). -/
def State.faulted (s : State) : Bool := s.fault != 0

/-- The status word (30_encoding R100). -/
def State.statusWord (s : State) : BitVec 64 :=
  BitVec.ofNat 64
    (s.initialized.toNat + s.scanFormat.code * 2 ^ 1 + s.wantResult.toNat * 2 ^ 2
      + s.tapState.code * 2 ^ 3 + s.fault.toNat * 2 ^ 8 + s.txBitCount.toNat * 2 ^ 16)

end Sys2Proof.Machine
end

