-- ==== Sys2Proof/Machine/Memory.lean ====
section
/-! DEFINITION. Reading and writing bytes of the memory spaces (20_memory R60, R62, R63, R68). -/

namespace Sys2Proof.Machine

/-- The byte at index `a`. -/
def Memory.read : Memory → Nat → Byte
  | [], _ => unlistedByte
  | c :: m, a => if c.1 = a then c.2 else Memory.read m a

/-- Put `b` at index `a`, keeping the canonical form. -/
def Memory.write : Memory → Nat → Byte → Memory
  | [], a, b => if b = unlistedByte then [] else [(a, b)]
  | c :: m, a, b =>
    if a < c.1 then (if b = unlistedByte then c :: m else (a, b) :: c :: m)
    else if a = c.1 then (if b = unlistedByte then m else (a, b) :: m)
    else c :: Memory.write m a b

/-- Write the bytes of a list at `a`, `a + 1`, … -/
def Memory.writeList : Memory → Nat → List Byte → Memory
  | m, _, [] => m
  | m, a, b :: bs => Memory.writeList (m.write a b) (a + 1) bs

/-- The memory whose bytes from index 0 are a list's: how a buffer the host supplies is written down. -/
def Memory.ofBytes (bs : List Byte) : Memory := Memory.writeList [] 0 bs

/-- Bit `i` of a bit buffer: bit `i mod 8` of byte `i / 8` (R62). -/
def Memory.bit (m : Memory) (i : Nat) : Bool := (m.read (i / 8)).getLsbD (i % 8)

/-- `old` with its bit `k` made `b` and every other bit kept (R63). -/
def withBit (old : Byte) (k : Nat) (b : Bool) : Byte :=
  (old &&& ~~~((1 : Byte) <<< k)) ||| ((BitVec.ofBool b).setWidth 8 <<< k)

/-- Write bit `i` of a bit buffer (R63). -/
def Memory.setBit (m : Memory) (i : Nat) (b : Bool) : Memory :=
  m.write (i / 8) (withBit (m.read (i / 8)) (i % 8) b)

/-- The memory that holds a space (R60). -/
def State.space (s : State) : Space → Memory
  | .rx => s.rx
  | .out => s.out
  | .inp => s.inp
  | .str => s.str

/-- `MemRead(sp, a, 1)` (00_scope R10). -/
def readByte (sp : Space) (a : Nat) (s : State) : Byte := (s.space sp).read a

/-- `MemRead(sp, a, n)`: bytes `a`, …, `a + n - 1` (R10). -/
def readBytes (sp : Space) (a n : Nat) (s : State) : List Byte :=
  (List.range n).map fun k => readByte sp (a + k) s

/-- `MemWrite(RX, 0, len bs, bs)` (R10, R64). -/
def writeRx (bs : List Byte) (s : State) : State := { s with rx := s.rx.writeList 0 bs }

/-- `set_in_bit(i, b)` (R63). -/
def setInBit (i : Nat) (b : Bool) (s : State) : State := { s with inp := s.inp.setBit i b }

end Sys2Proof.Machine
end

