-- ==== Sys2Proof/Machine/Operands.lean ====
section
/-! DEFINITION. The operand forms of the commands: TMS strings (30_encoding R89 to R92), the bits of
`OUT` (20_memory R61, R62) and the TAP states a scan names (43_tap_scan R200), and the response bit
(20_memory R65). -/

namespace Sys2Proof.Machine

/-- A character of a TMS transition string (R89). -/
inductive TmsChar where
  | zero
  | one
  | sep
  deriving DecidableEq, Repr

/-- A TMS transition string (R89). -/
abbrev TmsString := List TmsChar

/-- The character a byte stands for: `0` is 0x30, `1` is 0x31, `_` is 0x5F (R89). -/
def TmsChar.ofByte (b : Byte) : Option TmsChar :=
  if b = 0x30 then some .zero else if b = 0x31 then some .one else if b = 0x5F then some .sep else none

/-- The byte of a character (R89). -/
def TmsChar.toByte : TmsChar → Byte
  | .zero => 0x30
  | .one => 0x31
  | .sep => 0x5F

/-- The TMS value of a character, none for a separator (R89). -/
def TmsChar.value : TmsChar → Option Bool
  | .zero => some false
  | .one => some true
  | .sep => none

/-- `syms(s)`: the TMS values in order, separators dropped (R89). -/
def TmsString.syms (s : TmsString) : List Bool := s.filterMap TmsChar.value

/-- The index of the first byte that is no character of a TMS string (R90). -/
def firstBad : List Byte → Option Nat
  | [] => none
  | b :: bs =>
    match TmsChar.ofByte b with
    | none => some 0
    | some _ => (firstBad bs).map (· + 1)

/-- The string of valid bytes. -/
def tmsOfBytes (bs : List Byte) : TmsString := bs.filterMap TmsChar.ofByte

/-- `ZBS_STR(r)` = ("10" ++ "11_")^r ++ "0" (R91). -/
def zbsStr (r : Nat) : TmsString :=
  (List.replicate r [TmsChar.one, .zero, .one, .one, .sep]).flatten ++ [.zero]

/-- `NZBS_STR(a)` = "10_" ++ "0"^a ++ "_110" (R91). -/
def nzbsStr (a : Nat) : TmsString :=
  [TmsChar.one, .zero, .sep] ++ List.replicate a .zero ++ [.sep, .one, .one, .zero]

/-- `IDLE_STR` = "0111110" (R92). -/
def idleStr : TmsString := [.zero, .one, .one, .one, .one, .one, .zero]

/-- `RECONNECT_STR` = "1100110" (R92). -/
def reconnectStr : TmsString := [.one, .one, .zero, .zero, .one, .one, .zero]

/-- `LOCK_STR` = "000" (R92). -/
def lockStr : TmsString := [.zero, .zero, .zero]

/-- `DUMMY_STR` = "0" (R92). -/
def dummyStr : TmsString := [.zero]

/-- `MOVE(start, goal)`: the ten pairs of the table, none elsewhere (R99). -/
def tapTable : Tap → Tap → Option TmsString
  | .idle, .drShift => some [.one, .zero, .zero]
  | .idle, .irShift => some [.one, .one, .zero, .zero]
  | .drPause, .drShift => some [.one, .zero]
  | .drPause, .irShift => some [.one, .one, .one, .one, .zero, .zero]
  | .irPause, .drShift => some [.one, .one, .one, .zero, .zero]
  | .irPause, .irShift => some [.one, .zero]
  | .irExit1, .irPause => some [.zero]
  | .irExit1, .idle => some [.one, .zero]
  | .drExit1, .drPause => some [.zero]
  | .drExit1, .idle => some [.one, .zero]
  | _, _ => none

/-- The shift state of a scan (43_tap_scan R200, R207). -/
def shiftState (ir : Bool) : Tap := if ir then .irShift else .drShift

/-- The EXIT1 state of a scan (R200, R209). -/
def exit1State (ir : Bool) : Tap := if ir then .irExit1 else .drExit1

/-- `out_bit(i)`: 0 when no `OUT` buffer is supplied (R61, R62). -/
def outBit (hasOut : Bool) (i : Nat) (s : State) : Bool :=
  if hasOut then s.out.bit i else false

/-- The TDO bit of a response byte (20_memory R65, 30_encoding R98); its other bits are read by no rule. -/
def tdo (response : Byte) : Bool := response.getLsbD Config.respBit

end Sys2Proof.Machine
end

