-- ==== Sys2Proof/Machine/Tap.lean ====
section
/-! DEFINITION. The ghost view of the physical TAP (10_state R39, R40). -/

namespace Sys2Proof.Machine

/-- `next(s, t)`, the IEEE 1149.1 next-state function as the spec tabulates it (R40). -/
def tapNext : Tap → Bool → Tap
  | .reset, false => .idle | .reset, true => .reset
  | .idle, false => .idle | .idle, true => .drSelect
  | .drSelect, false => .drCapture | .drSelect, true => .irSelect
  | .drCapture, false => .drShift | .drCapture, true => .drExit1
  | .drShift, false => .drShift | .drShift, true => .drExit1
  | .drExit1, false => .drPause | .drExit1, true => .drUpdate
  | .drPause, false => .drPause | .drPause, true => .drExit2
  | .drExit2, false => .drShift | .drExit2, true => .drUpdate
  | .drUpdate, false => .idle | .drUpdate, true => .drSelect
  | .irSelect, false => .irCapture | .irSelect, true => .reset
  | .irCapture, false => .irShift | .irCapture, true => .irExit1
  | .irShift, false => .irShift | .irShift, true => .irExit1
  | .irExit1, false => .irPause | .irExit1, true => .irUpdate
  | .irPause, false => .irPause | .irPause, true => .irExit2
  | .irExit2, false => .irShift | .irExit2, true => .irUpdate
  | .irUpdate, false => .idle | .irUpdate, true => .drSelect

/-- The state a run of TMS values leads to. -/
def tapRun (t : Tap) (syms : List Bool) : Tap := syms.foldl tapNext t

/-- The states a run of TMS values passes, the last one included. -/
def tapTrace : Tap → List Bool → List Tap
  | _, [] => []
  | t, b :: bs => tapNext t b :: tapTrace (tapNext t b) bs

/-- `{ next(s, t) | s in phys }`, its members in the order of `Tap.all` (R39). -/
def physStep (phys : List Tap) (t : Bool) : List Tap :=
  Tap.all.filter fun q => phys.any fun p => tapNext p t == q

/-- The set after a run of TMS values. -/
def physRun (phys : List Tap) (syms : List Bool) : List Tap := syms.foldl physStep phys

/-- The effect of a token on `phys_set` (R39). -/
def physAfter (phys : List Tap) : Token → List Tap
  | .pinInit => Tap.all
  | .esc => Tap.all
  | .cyc _ _ tms _ => physStep phys tms
  | .fsw _ => phys
  | .chk _ => phys

/-- The effect of a channel event on `phys_set` (R39): a read has none. -/
def physEvent (phys : List Tap) : ChanEvent → List Tap
  | .write t => physAfter phys t
  | .read _ => phys

end Sys2Proof.Machine
end

