-- ==== Sys2Proof/Machine/Ops.lean ====
section
/-! DEFINITION. The primitives of the pseudocode (00_scope R10) and the operations several commands
share: emitting and reading (10_state R39, R41), the log, the ends of a command (60_exceptions R230),
taking a fault (R236), the transition helpers (41_bitscan R140, R141) and the table move (43_tap_scan R190). -/

namespace Sys2Proof.Machine

/-- `ctx.scan_format <- f` (R10). -/
def setScanFormat (f : ScanFormat) (s : State) : State := { s with scanFormat := f }

/-- `ctx.want_result <- b` (R10). -/
def setWantResult (b : Bool) (s : State) : State := { s with wantResult := b }

/-- `ctx.tx_bit_count <- n` (R10). -/
def setBitCount (n : BitVec 32) (s : State) : State := { s with txBitCount := n }

/-- `ctx.tap_state <- t` (R10). -/
def setTapState (t : Tap) (s : State) : State := { s with tapState := t }

/-- `ctx.initialized <- 1` (R10). -/
def setInitialized (s : State) : State := { s with initialized := true }

/-- Ghost `adapter_pending` is 0 (10_state R43, 42_mode R168; log entry 10). -/
def clearPending (s : State) : State := { s with adapterPending := 0 }

/-- `ctx.fault <- code` (R10). -/
def setFault (code : ResultCode) (s : State) : State := { s with fault := code.toByte }

/-- `emit T` (R10) with its ghost updates (R39, R41). -/
def emit (t : Token) (s : State) : State :=
  { s with
    chan := s.chan ++ [.write t]
    physSet := physAfter s.physSet t
    adapterPending := s.adapterPending + t.responses }

/-- `emit CYC(ctx.scan_format, ctx.want_result, tms, tdi)` (R93). -/
def emitCycle (tms tdi : Bool) (s : State) : State := emit (.cyc s.scanFormat s.wantResult tms tdi) s

/-- The state after `ChanRead(n)` with its ghost updates (R10). The read is misaligned when it is of more bytes than are
pending (R41), and when bytes left from before the tokens it answers are pending, which it returns first
(70_reset_and_hazards R266; log entry 9). -/
def afterRead (n : Nat) (s : State) : State :=
  { s with
    chan := s.chan ++ [.read n]
    adapterPending := s.adapterPending - n
    chanMisaligned := s.chanMisaligned || s.adapterPending != n
    countMisaligned := s.countMisaligned || decide (s.adapterPending < n)
    adapterIn := s.adapterIn.drop n
    drawn := s.drawn + (n - s.adapterIn.length) }

/-- `chan_misaligned` becomes 1 by R41 when `bad`; no step clears it. -/
def markMisaligned (bad : Bool) (s : State) : State :=
  { s with chanMisaligned := s.chanMisaligned || bad, countMisaligned := s.countMisaligned || bad }

/-- The bytes `ChanRead(n)` answers (R10, R243). -/
def readAnswer (n : Nat) (s : State) : List Byte := responses s.adapterIn s.drawn n

/-- `log(code, info)` (R10, R242). -/
def logEntry (code : ResultCode) (info : Nat) (s : State) : State :=
  { s with log := s.log ++ [⟨code, info⟩] }

/-- The command ends with a result on the result port (R10 `return v`, 30_encoding R101). -/
def endCommand (code : ResultCode) (value : Bool) (s : State) : State :=
  { s with results := s.results ++ [⟨code, value⟩] }

/-- `reject(code, info)` (R10, 60_exceptions R231; log entry 7). -/
def reject (code : ResultCode) (info : Nat) (s : State) : State :=
  endCommand code false (logEntry code info s)

/-- `refuse(reason)` (R10, 60_exceptions R233, R234; log entry 8). -/
def refuse (code : ResultCode) (s : State) : State := endCommand code false s

/-- How the steps of a command end: all done, or stopped at a fault (60_exceptions R236). -/
inductive Run where
  | done (s : State)
  | stopped (s : State) (code : ResultCode)
  deriving DecidableEq, Repr

/-- The next steps of a command, which do not run after a fault (R236). -/
def Run.andThen (r : Run) (f : State → Run) : Run :=
  match r with
  | .done s => f s
  | .stopped s code => .stopped s code

/-- The next steps of a command, when none of them can fault. -/
def Run.andDo (r : Run) (f : State → State) : Run := r.andThen fun s => .done (f s)

/-- The end of a command: `OK` with its value, or the code of the fault that stopped it (R101, R230). -/
def Run.finish (value : Bool) : Run → State
  | .done s => endCommand .ok value s
  | .stopped s code => endCommand code false s

/-- TAKING A FAULT: `raise Fault(code, info)` (R10, 60_exceptions R236): `fault` holds the code, the log
gets its entry, the command and every command that called it stop, and everything done before stays.
Nothing returns from a fault: only block reset clears it (R237). -/
def raiseFault (code : ResultCode) (info : Nat) (s : State) : Run :=
  .stopped (logEntry code info (setFault code s)) code

/-- `tx_bit_count` advances by one, modulo 2^32 (10_state R35). -/
def countBit (s : State) : State := setBitCount (s.txBitCount + 1) s

/-- One symbol of `transitions_immediate` (41_bitscan R140). -/
def immediateSymbol (s : State) (t : Bool) : State :=
  countBit (afterRead 1 (emitCycle t false s))

/-- `transitions_immediate(s)` (R140). -/
def transitionsImmediate (str : TmsString) (s : State) : State := str.syms.foldl immediateSymbol s

/-- One symbol of `transitions_deferred` (41_bitscan R141). -/
def deferredSymbol (s : State) (t : Bool) : State := countBit (emitCycle t false s)

/-- `transitions_deferred(s)` (R141). -/
def transitionsDeferred (str : TmsString) (s : State) : State := str.syms.foldl deferredSymbol s

/-- `tap_move(goal)` (43_tap_scan R190). -/
def tapMove (goal : Tap) (s : State) : State :=
  match tapTable s.tapState goal with
  | some str => setTapState goal (transitionsDeferred str s)
  | none => s

end Sys2Proof.Machine
end

