-- ==== Sys2Proof/Machine/Admission.lean ====
section
/-! DEFINITION. Taking a request from the command port and admitting it (30_encoding R80; 60_exceptions R233). -/

namespace Sys2Proof.Machine

/-- The commands admitted while `initialized` is 0 (R233, 70_reset_and_hazards R262). -/
def Instr.admittedUninit : Instr → Bool
  | .init => true
  | .settap _ => true
  | .scan _ _ _ _ _ _ => false
  | .pininit => false
  | .escape => false
  | .cycle _ _ => false
  | .fmtsw _ => false
  | .check => false
  | .zbs _ => false
  | .nzbs _ => false
  | .ecm _ => false
  | .twopart _ _ => false
  | .wantres _ => false
  | .setidle => false
  | .e2wtest => false
  | .e2w => false
  | .oscan1 => false
  | .tapmove _ => false
  | .trans _ => false

/-- The state once the block has taken a request: the rest of the requests wait, and the spaces `OUT`,
`IN`, `STR` are those the host supplied with it (20_memory R60, R71, R274; log entry 1). -/
def State.accept (s : State) (r : Request) (rest : List Request) : State :=
  { s with cmdPort := rest, out := r.out, inp := r.inp, str := r.str }

/-- What admission decides: the command has ended, or it runs. -/
inductive Admission where
  | ended (s : State)
  | run (i : Instr)
  deriving DecidableEq, Repr

/-- The three checks of R233, in their order. -/
def admission (w : CmdWord) (s : State) : Admission :=
  if s.faulted then .ended (refuse .refusedFaulted s)
  else
    match decode w with
    | .error _ => .ended (reject .rejIllegalCmd w.toNat s)
    | .ok i =>
      if s.initialized || Instr.admittedUninit i then .run i
      else .ended (refuse .refusedUninit s)

/-- A block with no command waiting holds its state and does nothing (60_exceptions R247; log entry 2). -/
def idle (s : State) : State := s

/-- The request a command word stands for when its buffers are those the spaces hold now. -/
def State.requestOf (s : State) (w : CmdWord) : Request := ⟨w, s.out, s.inp, s.str⟩

end Sys2Proof.Machine
end

