-- ==== Sys2Proof/Machine/Encoder.lean ====
section
/-! DEFINITION. The packet encoder's commands (40_packet_encoder). -/

namespace Sys2Proof.Machine

/-- The steps of `PININIT` (R120). -/
def pinInit (s : State) : State := afterRead 1 (emit .pinInit s)

/-- The steps of `ESCAPE` (R121). -/
def escapeSequence (s : State) : State := emit .esc s

/-- The steps of `FMTSW target` (R123). -/
def formatSwitch (target : ScanFormat) (s : State) : State :=
  if s.scanFormat = target then s else setScanFormat target (emit (.fsw target) s)

/-- The steps of `CHECK` (R124). -/
def checkPacket (s : State) : State :=
  let s' := if s.scanFormat = .oscan1 then transitionsImmediate dummyStr s else s
  emit (.chk s'.scanFormat) s'

/-- `PININIT` (R120). -/
def execPininit (s : State) : Host.Outcome State Fault Refusal := .next (endCommand .ok false (pinInit s))

/-- `ESCAPE` (R121). -/
def execEscape (s : State) : Host.Outcome State Fault Refusal :=
  .next (endCommand .ok false (escapeSequence s))

/-- `CYCLE tms, tdi` (R122): the response byte stays pending. -/
def execCycle (tms tdi : Bool) (s : State) : Host.Outcome State Fault Refusal :=
  .next (endCommand .ok false (emitCycle tms tdi s))

/-- `FMTSW target` (R123). -/
def execFmtsw (target : ScanFormat) (s : State) : Host.Outcome State Fault Refusal :=
  .next (endCommand .ok false (formatSwitch target s))

/-- `CHECK` (R124). -/
def execCheck (s : State) : Host.Outcome State Fault Refusal :=
  .next (endCommand .ok false (checkPacket s))

end Sys2Proof.Machine
end

