-- ==== Sys2Proof/Machine/BitScan.lean ====
section
/-! DEFINITION. The bit-scan sequencer's commands (41_bitscan). A bit-scan's count is a natural number,
since the star-command parameters may exceed a field (00_scope R7). -/

namespace Sys2Proof.Machine

/-- The steps of `ZBS repeat` (R142). -/
def zeroBitScan (repeats : Nat) (s : State) : Run :=
  if repeats > Config.maxBitscan then raiseFault .faultZbsRange repeats s
  else .done (transitionsImmediate (zbsStr repeats) s)

/-- The steps of `NZBS amount` (R143). -/
def nonZeroBitScan (amount : Nat) (s : State) : Run :=
  if amount > Config.maxBitscan then raiseFault .faultNzbsRange amount s
  else .done (transitionsImmediate (nzbsStr amount) s)

/-- The steps of `ECM level` (R144). -/
def enterControlMode (level : Nat) (s : State) : Run :=
  ((zeroBitScan level s).andThen (nonZeroBitScan 1)).andDo (transitionsImmediate lockStr)

/-- The steps of `TWOPART opcode, operand` (R145). -/
def twoPart (opcode operand : Nat) (s : State) : Run :=
  ((nonZeroBitScan opcode s).andThen (nonZeroBitScan operand)).andDo fun s =>
    if s.scanFormat = .oscan1 then checkPacket s else s

/-- `TRANS len` (R140): the whole string is validated before anything is emitted (30_encoding R90). -/
def execTrans (len : Nat) (s : State) : Host.Outcome State Fault Refusal :=
  .next
    (match firstBad (readBytes .str 0 len s) with
     | some k => reject .rejBadTmsString k s
     | none => endCommand .ok false (transitionsImmediate (tmsOfBytes (readBytes .str 0 len s)) s))

/-- `ZBS repeat` (R142). -/
def execZbs (repeats : Nat) (s : State) : Host.Outcome State Fault Refusal :=
  .next ((zeroBitScan repeats s).finish false)

/-- `NZBS amount` (R143). -/
def execNzbs (amount : Nat) (s : State) : Host.Outcome State Fault Refusal :=
  .next ((nonZeroBitScan amount s).finish false)

/-- `ECM level` (R144). -/
def execEcm (level : Nat) (s : State) : Host.Outcome State Fault Refusal :=
  .next ((enterControlMode level s).finish false)

/-- `TWOPART opcode, operand` (R145). -/
def execTwopart (opcode operand : Nat) (s : State) : Host.Outcome State Fault Refusal :=
  .next ((twoPart opcode operand s).finish false)

end Sys2Proof.Machine
end

