-- ==== Sys2Proof/Machine/Mode.lean ====
section
/-! DEFINITION. The protocol/mode state machine's commands (42_mode). -/

namespace Sys2Proof.Machine

/-- The first two steps of `set_to_idle()`: the string and the tracked state (R161). -/
def forceIdle (s : State) : State := setTapState .idle (transitionsImmediate idleStr s)

/-- The steps of `OSCAN1` (R164). -/
def enterOscan1 (s : State) : Run :=
  ((twoPart s.params.stfmt s.params.oscan1Param s).andDo checkPacket).andDo fun s =>
    if s.params.oscan1Switch then formatSwitch .oscan1 s else setScanFormat .oscan1 s

/-- The steps of `E2W`, with the `set_to_idle()` it calls (R163). -/
def enterTwoWire (toIdle : State → Run) (s : State) : Run :=
  (((((toIdle (setWantResult false s)).andThen (enterControlMode 2)).andThen enterOscan1).andThen
    fun t => twoPart t.params.stmc t.params.exitCmdLvl t).andDo
    fun t => if t.params.e2wTouch then transitionsImmediate reconnectStr t else t).andDo
    (setWantResult s.wantResult)

/-- What `set_to_idle()` does after its first two steps (R161): from OSCAN1 it recovers. The recursion is one
level deep, since the nested calls see NORMAL (R166), so they are `forceIdle` alone. -/
def recoverTwoWire (s : State) : Run :=
  if s.scanFormat = .normal then .done s
  else enterTwoWire (fun t => .done (forceIdle t)) (forceIdle (formatSwitch .normal s))

/-- `set_to_idle()` (R161). -/
def setToIdle (s : State) : Run := recoverTwoWire (forceIdle s)

/-- The steps of `E2WTEST` (R162). From OSCAN1 the `E2W` inside its `set_to_idle()` can fault on any of the four
parameters, as the pseudocode of R161 to R163 says and the exceptions of R162 and R232 do not (log entry 18). -/
def enterTwoWireAndTest (s : State) : Run :=
  ((((setToIdle (setWantResult false s)).andThen (enterControlMode 2)).andThen enterOscan1).andDo
    (transitionsImmediate reconnectStr)).andDo (setWantResult s.wantResult)

/-- The steps of `INIT` (R165); completed, it leaves no byte pending (R168, 10_state R43; log entry 10). -/
def initialise (s : State) : Run :=
  ((setToIdle (escapeSequence (pinInit (setBitCount 0 (setWantResult true (setScanFormat .normal s)))))).andThen enterTwoWireAndTest).andDo
    fun t => clearPending (setInitialized t)

/-- `WANTRES value` (R160): the value returned is the old one. -/
def execWantres (value : Bool) (s : State) : Host.Outcome State Fault Refusal :=
  .next (endCommand .ok s.wantResult (setWantResult value s))

/-- `SETIDLE` (R161). -/
def execSetidle (s : State) : Host.Outcome State Fault Refusal := .next ((setToIdle s).finish false)

/-- `E2WTEST` (R162): the value returned is 1. -/
def execE2wtest (s : State) : Host.Outcome State Fault Refusal :=
  .next ((enterTwoWireAndTest s).finish true)

/-- `E2W` (R163). -/
def execE2w (s : State) : Host.Outcome State Fault Refusal :=
  .next ((enterTwoWire setToIdle s).finish false)

/-- `OSCAN1` (R164). -/
def execOscan1 (s : State) : Host.Outcome State Fault Refusal := .next ((enterOscan1 s).finish false)

/-- `INIT` (R165). -/
def execInit (s : State) : Host.Outcome State Fault Refusal := .next ((initialise s).finish false)

end Sys2Proof.Machine
end

