-- ==== Sys2Proof/Machine/Scan.lean ====
section
/-! DEFINITION. The TAP state tracker and scan executor (43_tap_scan). -/

namespace Sys2Proof.Machine

/-- Step 3 of `SCAN`: the preamble (R207). -/
def scanPreamble (ir : Bool) (s : State) : State :=
  if s.tapState = shiftState ir then s else tapMove (shiftState ir) s

/-- One payload cycle: bit `i` of `bitCount`, TMS 1 on the last (R208). -/
def payloadCycle (hasOut : Bool) (bitCount : Nat) (s : State) (i : Nat) : State :=
  emitCycle (decide (i + 1 = bitCount)) (outBit hasOut i s) s

/-- Step 4 of `SCAN`: the payload cycles, and EXIT1 after the last (R208, R209, R214). -/
def scanPayload (ir hasOut : Bool) (bitCount : Nat) (s : State) : State :=
  let s' := (List.range bitCount).foldl (payloadCycle hasOut bitCount) s
  if bitCount = 0 then s' else setTapState (exit1State ir) s'

/-- Step 6 of `SCAN`: one read of `bit_count + tx_bit_count` bytes into `RX` (R211). `cycles` is the number
of `CYC` tokens this scan emitted; a different count pending is a misalignment (10_state R41). -/
def scanReceive (bitCount cycles : Nat) (s : State) : State :=
  let n := bitCount + s.txBitCount.toNat
  let s' := afterRead n (markMisaligned (s.adapterPending != cycles) s)
  writeRx (readAnswer n s) s'

/-- Step 7 of `SCAN`: bit `i` of `IN` from byte `i + pre` of `RX` (R212). -/
def scanExtract (hasIn : Bool) (bitCount pre : Nat) (s : State) : State :=
  if hasIn then
    (List.range bitCount).foldl (fun t i => setInBit i (tdo (readByte .rx (i + pre) t)) t) s
  else s

/-- Steps 2 to 7 of `SCAN` (R200), the same in every format and for either `want_result` (R215). -/
def scanRun (ir : Bool) (endState : Tap) (hasOut hasIn : Bool) (bitCount : Nat) (s : State) : State :=
  let s1 := scanPreamble ir (setBitCount 0 s)
  let s2 := tapMove endState (scanPayload ir hasOut bitCount s1)
  let cycles := cycleCount (s2.chan.drop s.chan.length)
  scanExtract hasIn bitCount s1.txBitCount.toNat (scanReceive bitCount cycles s2)

/-- `SCAN` (R200), with the two checks of step 1 in their order (R203 to R205). -/
def execScan (ir : Bool) (endState : Tap) (hasOut hasIn : Bool) (numFields bitCount : Nat) (s : State) :
    Host.Outcome State Fault Refusal :=
  .next
    (if numFields ≠ 1 then reject .rejMultiField numFields s
     else if bitCount + Config.maxPreamble + Config.maxPostamble > Config.rxCapacity then
       reject .rejOversize bitCount s
     else endCommand .ok false (scanRun ir endState hasOut hasIn bitCount s))

/-- `TAPMOVE goal` (R190). -/
def execTapmove (goal : Tap) (s : State) : Host.Outcome State Fault Refusal :=
  .next (endCommand .ok false (tapMove goal s))

/-- `SETTAP state` (R217). -/
def execSettap (state : Tap) (s : State) : Host.Outcome State Fault Refusal :=
  .next (endCommand .ok false (setTapState state s))

end Sys2Proof.Machine
end

