-- ==== Sys2Proof/Machine/Dispatch.lean ====
section
/-! DEFINITION. The meaning of each command, one arm per constructor of `Instr` (30_encoding R83). -/

namespace Sys2Proof.Machine

def exec (i : Instr) (s : State) : Host.Outcome State Fault Refusal :=
  match i with
  | .init => Sys2Proof.Machine.execInit s
  | .scan ir endState hasOut hasIn numFields bitCount => Sys2Proof.Machine.execScan ir endState hasOut hasIn numFields bitCount s
  | .pininit => Sys2Proof.Machine.execPininit s
  | .escape => Sys2Proof.Machine.execEscape s
  | .cycle tms tdi => Sys2Proof.Machine.execCycle tms tdi s
  | .fmtsw target => Sys2Proof.Machine.execFmtsw target s
  | .check => Sys2Proof.Machine.execCheck s
  | .zbs repeats => Sys2Proof.Machine.execZbs repeats s
  | .nzbs amount => Sys2Proof.Machine.execNzbs amount s
  | .ecm level => Sys2Proof.Machine.execEcm level s
  | .twopart opcode operand => Sys2Proof.Machine.execTwopart opcode operand s
  | .wantres value => Sys2Proof.Machine.execWantres value s
  | .setidle => Sys2Proof.Machine.execSetidle s
  | .e2wtest => Sys2Proof.Machine.execE2wtest s
  | .e2w => Sys2Proof.Machine.execE2w s
  | .oscan1 => Sys2Proof.Machine.execOscan1 s
  | .tapmove goal => Sys2Proof.Machine.execTapmove goal s
  | .trans len => Sys2Proof.Machine.execTrans len s
  | .settap state => Sys2Proof.Machine.execSettap state s

end Sys2Proof.Machine
end

