-- ==== Sys2Proof/Machine/Step.lean ====
section
/-! DEFINITION. One step of the block: the oldest request on the command port, admitted and run to
completion (00_scope R11, 60_exceptions R233, 70_reset_and_hazards R275 "one step per command"). -/

namespace Sys2Proof.Machine

/-- One step (log entries 1 and 2). -/
def step (s : State) : Host.Outcome State Fault Refusal :=
  match s.cmdPort with
  | [] => .next (idle s)
  | r :: rest =>
    match admission r.word (s.accept r rest) with
    | .ended t => .next t
    | .run i => exec i (s.accept r rest)

/-- `s` with the command word whose low `nbits` bits are `w` next on the command port, its buffers those
the spaces hold now (log entry 1). -/
def State.withFetchWord (s : State) (nbits w : Nat) : State :=
  { s with cmdPort := s.requestOf (tableWord nbits w) :: s.cmdPort }

end Sys2Proof.Machine
end

