-- ==== Sys2Proof/Safety.lean ====
section
/-! DEFINITION. What the statements mean by a good state and a safe run: the invariant of the model, TAP
synchronisation (10_state R39), and the hazards and refusals a run may meet (60_exceptions R234, R239). -/

namespace Sys2Proof.Machine

/-- The host buffers of a request are in canonical form. -/
abbrev Request.Wf (r : Request) : Prop := r.out.wf ∧ r.inp.wf ∧ r.str.wf

/-- A ghost set as the model writes it: a set of TAP states in the order of `Tap.all`, not empty. -/
abbrev PhysSetWf (phys : List Tap) : Prop := phys = Tap.all.filter (phys.contains ·) ∧ phys ≠ []

/-- The invariant of the model: the memories are canonical and `RX` stays inside its 1000 bytes
(20_memory R60), `fault` holds 0 or a fault code (10_state R38), and the physical TAP is in some state. -/
abbrev State.Inv (s : State) : Prop :=
  s.rx.wf ∧ s.rx.below Config.rxCapacity ∧ s.out.wf ∧ s.inp.wf ∧ s.str.wf ∧
  (∀ r ∈ s.cmdPort, r.Wf) ∧
  (s.fault = 0 ∨ s.fault = ResultCode.faultZbsRange.toByte ∨ s.fault = ResultCode.faultNzbsRange.toByte) ∧
  PhysSetWf s.physSet

/-- The block is TAP-synchronised (10_state R39). -/
abbrev State.Synchronised (s : State) : Prop := s.physSet = [s.tapState]

/-- No byte is pending and no read was misaligned (10_state R41, 70_reset_and_hazards R266). -/
abbrev State.Aligned (s : State) : Prop :=
  s.adapterPending = 0 ∧ s.chanMisaligned = false ∧ s.countMisaligned = false

/-- The run has reached a refused command (60_exceptions R234). -/
def State.refusalReached (s : State) : Bool := s.results.any fun r => r.code.kind == .refused

/-- The registers of the LinkContext and the receive buffer (10_state R32, 20_memory R60). -/
abbrev State.SameRegisters (s t : State) : Prop :=
  t.scanFormat = s.scanFormat ∧ t.wantResult = s.wantResult ∧ t.txBitCount = s.txBitCount ∧
  t.tapState = s.tapState ∧ t.initialized = s.initialized ∧ t.fault = s.fault ∧ t.rx = s.rx

/-- What a stretch of channel events leaves behind when each cycle is a transition cycle and every response
byte is read at once: the events are on the channel, `tx_bit_count` has counted the cycles (10_state R35),
`phys_set` has stepped (R39), the answers are used up (log entry 5), and with bytes pending before them the reads are
misaligned (70_reset_and_hazards R266; log entry 9). Nothing else changes. -/
def afterEvents (events : List ChanEvent) (s : State) : State :=
  { s with
    chan := s.chan ++ events
    txBitCount := s.txBitCount + BitVec.ofNat 32 (cycleCount events)
    physSet := events.foldl physEvent s.physSet
    chanMisaligned := s.chanMisaligned || (s.adapterPending != 0 && readCount events != 0)
    adapterIn := s.adapterIn.drop (readCount events)
    drawn := s.drawn + (readCount events - s.adapterIn.length) }

/-- The state with other ghost values (10_state section 3). -/
def State.withGhost (s : State) (phys : List Tap) (pending : Nat) (misaligned counted : Bool) : State :=
  { s with physSet := phys, adapterPending := pending, chanMisaligned := misaligned, countMisaligned := counted }

end Sys2Proof.Machine
end

