-- ==== Sys2Proof/Stated.lean ====
section
/-! DEFINITION. The sequences the rules name, written a second time from the spec, so that a statement about
the machine does not lean on the machine's own tables. -/

namespace Sys2Proof.Stated

open Sys2Proof Sys2Proof.Machine

/-- The symbols of `ZBS_STR(r)` (30_encoding R91). -/
def zbsSyms (r : Nat) : List Bool := (List.replicate r [true, false, true, true]).flatten ++ [false]

/-- The symbols of `NZBS_STR(a)` (R91). -/
def nzbsSyms (a : Nat) : List Bool := [true, false] ++ List.replicate a false ++ [true, true, false]

/-- The symbols of `IDLE_STR`, `RECONNECT_STR` and `LOCK_STR` (R92). -/
def idleSyms : List Bool := [false, true, true, true, true, true, false]
def reconnectSyms : List Bool := [true, true, false, false, true, true, false]
def lockSyms : List Bool := [false, false, false]

/-- The symbols of `ECM level` (41_bitscan R144). -/
def ecmSyms (level : Nat) : List Bool := zbsSyms level ++ nzbsSyms 1 ++ lockSyms

/-- The symbols of a string on `STR` (R89): 0x30 is TMS 0, 0x31 is TMS 1, 0x5F is dropped. -/
def byteSyms (bs : List Byte) : List Bool :=
  bs.filterMap fun b => if b = 0x30 then some false else if b = 0x31 then some true else none

/-- The bytes a TMS string may hold (R89). -/
def tmsByte (b : Byte) : Prop := b = 0x30 ∨ b = 0x31 ∨ b = 0x5F

/-- The ten pairs of the transition table (R99). -/
def moveTable : List (Tap × Tap × List Bool) :=
  [ (.idle, .drShift, [true, false, false]),
    (.idle, .irShift, [true, true, false, false]),
    (.drPause, .drShift, [true, false]),
    (.drPause, .irShift, [true, true, true, true, false, false]),
    (.irPause, .drShift, [true, true, true, false, false]),
    (.irPause, .irShift, [true, false]),
    (.irExit1, .irPause, [false]),
    (.irExit1, .idle, [true, false]),
    (.drExit1, .drPause, [false]),
    (.drExit1, .idle, [true, false]) ]

/-- `MOVE(start, goal)` (R99). -/
def moveSyms (start goal : Tap) : Option (List Bool) :=
  (moveTable.find? fun row => row.1 == start && row.2.1 == goal).map fun row => row.2.2

/-- The events of `CHECK` (40_packet_encoder R124). -/
def checkEvents (fmt : ScanFormat) (wr : Bool) : List ChanEvent :=
  (if fmt = .oscan1 then immediateEvents .oscan1 wr [false] else []) ++ [.write (.chk fmt)]

/-- The events of `TWOPART` (41_bitscan R145). -/
def twoPartEvents (fmt : ScanFormat) (wr : Bool) (opcode operand : Nat) : List ChanEvent :=
  immediateEvents fmt wr (nzbsSyms opcode ++ nzbsSyms operand)
    ++ (if fmt = .oscan1 then checkEvents .oscan1 wr else [])

/-- The events of `OSCAN1` (42_mode R164). -/
def oscan1Events (p : Config.Params) (fmt : ScanFormat) (wr : Bool) : List ChanEvent :=
  twoPartEvents fmt wr p.stfmt p.oscan1Param ++ checkEvents fmt wr
    ++ (if p.oscan1Switch = true ∧ fmt = .normal then [.write (.fsw .oscan1)] else [])

/-- The events of `E2W` after its `set_to_idle()` (42_mode R163). -/
def twoWireEvents (p : Config.Params) (fmt : ScanFormat) : List ChanEvent :=
  immediateEvents fmt false (ecmSyms 2) ++ oscan1Events p fmt false
    ++ twoPartEvents .oscan1 false p.stmc p.exitCmdLvl
    ++ (if p.e2wTouch then immediateEvents .oscan1 false reconnectSyms else [])

/-- The events of `set_to_idle()` (42_mode R161, and V58 in full for OSCAN1). -/
def setIdleEvents (p : Config.Params) (fmt : ScanFormat) (wr : Bool) : List ChanEvent :=
  match fmt with
  | .normal => immediateEvents .normal wr idleSyms
  | .oscan1 =>
    immediateEvents .oscan1 wr idleSyms ++ [.write (.fsw .normal)] ++ immediateEvents .normal wr idleSyms
      ++ immediateEvents .normal false idleSyms ++ twoWireEvents p .normal

/-- The events of `E2W` (R163). -/
def e2wEvents (p : Config.Params) (fmt : ScanFormat) : List ChanEvent :=
  setIdleEvents p fmt false ++ twoWireEvents p fmt

/-- The events of `E2WTEST` (R162). -/
def e2wTestEvents (p : Config.Params) (fmt : ScanFormat) : List ChanEvent :=
  setIdleEvents p fmt false ++ immediateEvents fmt false (ecmSyms 2) ++ oscan1Events p fmt false
    ++ immediateEvents .oscan1 false reconnectSyms

/-- The token stream of `INIT`: rows 1 to 10 of 42_mode R168. -/
def initEvents (p : Config.Params) : List ChanEvent :=
  [.write .pinInit, .read 1, .write .esc]
    ++ immediateEvents .normal true idleSyms
    ++ immediateEvents .normal false idleSyms
    ++ immediateEvents .normal false (ecmSyms 2)
    ++ immediateEvents .normal false (nzbsSyms p.stfmt)
    ++ immediateEvents .normal false (nzbsSyms p.oscan1Param)
    ++ [.write (.chk .normal)]
    ++ (if p.oscan1Switch then [.write (.fsw .oscan1)] else [])
    ++ immediateEvents .oscan1 false reconnectSyms

/-- The counts the bit-scans of a compound command get from the parameters, in program order
(42_mode R161 to R165; 60_exceptions R232, which does not name the counts of the nested `E2W` for `E2WTEST`: log entry
18). -/
def recoveryCounts (p : Config.Params) : List Nat := [p.stfmt, p.oscan1Param, p.stmc, p.exitCmdLvl]
def bringUpCounts (p : Config.Params) (fmt : ScanFormat) : Instr → List Nat
  | .oscan1 => [p.stfmt, p.oscan1Param]
  | .setidle => if fmt = .oscan1 then recoveryCounts p else []
  | .e2w => if fmt = .oscan1 then recoveryCounts p ++ recoveryCounts p else recoveryCounts p
  | .e2wtest => if fmt = .oscan1 then recoveryCounts p ++ [p.stfmt, p.oscan1Param] else [p.stfmt, p.oscan1Param]
  | .init => [p.stfmt, p.oscan1Param]
  | _ => []

/-- A piece of a bring-up command's course: channel events, or the check of a count that a parameter gives to a
non-zero bit-scan, with the format the link is in then (60_exceptions R232). -/
inductive Piece where
  | send (events : List ChanEvent)
  | check (count : Nat) (fmt : ScanFormat)
  deriving DecidableEq, Repr

/-- The pieces of `NZBS`, `TWOPART`, `OSCAN1` (41_bitscan R143, R145, 42_mode R164) and of `E2W` after its
`set_to_idle()` (R163), for counts that parameters give. -/
def nzbsPieces (fmt : ScanFormat) (wr : Bool) (n : Nat) : List Piece :=
  [.check n fmt, .send (immediateEvents fmt wr (nzbsSyms n))]
def twoPartPieces (fmt : ScanFormat) (wr : Bool) (opcode operand : Nat) : List Piece :=
  nzbsPieces fmt wr opcode ++ nzbsPieces fmt wr operand
    ++ [.send (if fmt = .oscan1 then checkEvents .oscan1 wr else [])]
def oscan1Pieces (p : Config.Params) (fmt : ScanFormat) (wr : Bool) : List Piece :=
  twoPartPieces fmt wr p.stfmt p.oscan1Param
    ++ [.send (checkEvents fmt wr),
        .send (if p.oscan1Switch = true ∧ fmt = .normal then [.write (.fsw .oscan1)] else [])]
def twoWirePieces (p : Config.Params) (fmt : ScanFormat) : List Piece :=
  [.send (immediateEvents fmt false (ecmSyms 2))] ++ oscan1Pieces p fmt false
    ++ twoPartPieces .oscan1 false p.stmc p.exitCmdLvl
    ++ [.send (if p.e2wTouch then immediateEvents .oscan1 false reconnectSyms else [])]

/-- The pieces of `set_to_idle()` (R161). -/
def setIdlePieces (p : Config.Params) (fmt : ScanFormat) (wr : Bool) : List Piece :=
  match fmt with
  | .normal => [.send (immediateEvents .normal wr idleSyms)]
  | .oscan1 =>
    [.send (immediateEvents .oscan1 wr idleSyms), .send [.write (.fsw .normal)],
     .send (immediateEvents .normal wr idleSyms), .send (immediateEvents .normal false idleSyms)]
      ++ twoWirePieces p .normal

/-- The pieces of `E2WTEST` (R162). -/
def twoWireTestPieces (p : Config.Params) (fmt : ScanFormat) : List Piece :=
  setIdlePieces p fmt false ++ [.send (immediateEvents fmt false (ecmSyms 2))] ++ oscan1Pieces p fmt false
    ++ [.send (immediateEvents .oscan1 false reconnectSyms)]

/-- The pieces of a bring-up command run in format `fmt` with `want_result` `wr` (R161 to R165). -/
def bringUpPieces (p : Config.Params) (fmt : ScanFormat) (wr : Bool) : Instr → List Piece
  | .oscan1 => oscan1Pieces p fmt wr
  | .setidle => setIdlePieces p fmt wr
  | .e2w => setIdlePieces p fmt false ++ twoWirePieces p fmt
  | .e2wtest => twoWireTestPieces p fmt
  | .init =>
    [.send [.write .pinInit, .read 1, .write .esc], .send (immediateEvents .normal true idleSyms)]
      ++ twoWireTestPieces p .normal
  | _ => []

/-- The events of the pieces before the first check of a count above 10, and that count with its format; all the
events when there is no such check (60_exceptions R236). -/
def upToFault : List Piece → List ChanEvent × Option (Nat × ScanFormat)
  | [] => ([], none)
  | .send e :: ps => (e ++ (upToFault ps).1, (upToFault ps).2)
  | .check n fmt :: ps => if 10 < n then ([], some (n, fmt)) else upToFault ps

/-- The shift and EXIT1 states of a scan (43_tap_scan R200). -/
def scanShift (ir : Bool) : Tap := if ir then .irShift else .drShift
def scanExit1 (ir : Bool) : Tap := if ir then .irExit1 else .drExit1

/-- The preamble symbols of a scan from `tap`, and the tracked state after them (R207). -/
def scanPre (ir : Bool) (tap : Tap) : List Bool :=
  if tap = scanShift ir then [] else (moveSyms tap (scanShift ir)).getD []
def tapAfterPre (ir : Bool) (tap : Tap) : Tap :=
  if (moveSyms tap (scanShift ir)).isSome then scanShift ir else tap

/-- The tracked state after the payload (R209, R214). -/
def tapAfterPayload (ir : Bool) (n : Nat) (tap : Tap) : Tap :=
  if n = 0 then tapAfterPre ir tap else scanExit1 ir

/-- The postamble symbols, and the tracked state after them (R210). -/
def scanPost (ir : Bool) (n : Nat) (goal tap : Tap) : List Bool :=
  (moveSyms (tapAfterPayload ir n tap) goal).getD []
def scanEnd (ir : Bool) (n : Nat) (goal tap : Tap) : Tap :=
  if (moveSyms (tapAfterPayload ir n tap) goal).isSome then goal else tapAfterPayload ir n tap

/-- `pre + bit_count + post`, the read length `N` (R211, R219). -/
def scanLength (ir : Bool) (n : Nat) (goal tap : Tap) : Nat :=
  (scanPre ir tap).length + n + (scanPost ir n goal tap).length

/-- Bit `i` of a bit buffer (20_memory R62). -/
def bitOf (m : Memory) (i : Nat) : Bool := (m.read (i / 8)).getLsbD (i % 8)

/-- The TMS values of the payload cycles: 1 on the last (R208). -/
def payloadTms (n : Nat) : List Bool := (List.range n).map fun i => i + 1 == n

/-- The payload cycles: TDI is bit `i` of `OUT`, 0 without one (R208, 20_memory R61). -/
def payloadEvents (fmt : ScanFormat) (wr hasOut : Bool) (n : Nat) (out : Memory) : List ChanEvent :=
  (List.range n).map fun i => .write (.cyc fmt wr (i + 1 == n) (hasOut && bitOf out i))

/-- The cycles of an accepted scan (R207 to R210). -/
def scanCycles (ir : Bool) (goal : Tap) (hasOut : Bool) (n : Nat) (s : State) : List ChanEvent :=
  deferredEvents s.scanFormat s.wantResult (scanPre ir s.tapState)
    ++ payloadEvents s.scanFormat s.wantResult hasOut n s.out
    ++ deferredEvents s.scanFormat s.wantResult (scanPost ir n goal s.tapState)

/-- The TMS values of those cycles. -/
def scanTms (ir : Bool) (goal : Tap) (n : Nat) (tap : Tap) : List Bool :=
  scanPre ir tap ++ payloadTms n ++ scanPost ir n goal tap

/-- How many clock edges of a run are taken in Shift-DR (41_bitscan R147). -/
def shiftEdges (start : Tap) (syms : List Bool) : Nat :=
  ((start :: tapTrace start syms).dropLast).count .drShift

/-- A channel event with the `wr` argument of its cycle left out (10_state R34). -/
def withoutWr : ChanEvent → ChanEvent
  | .write (.cyc fmt _ tms tdi) => .write (.cyc fmt false tms tdi)
  | e => e

/-- The operands of an instruction are the fields its format gives them in the word (30_encoding R81 to R83, R86 to
R88). -/
def fieldsAre (w : CmdWord) : Instr → Prop
  | .init | .pininit | .escape | .check | .setidle | .e2wtest | .e2w | .oscan1 => True
  | .scan ir endState hasOut hasIn numFields bitCount =>
    ir = w.getLsbD 5 ∧ endState.code = (w.extractLsb' 6 4).toNat ∧ hasOut = w.getLsbD 10 ∧ hasIn = w.getLsbD 11 ∧
    numFields = (w.extractLsb' 12 4).toNat ∧ bitCount = (w.extractLsb' 16 16).toNat
  | .cycle tms tdi => tms = w.getLsbD 5 ∧ tdi = w.getLsbD 6
  | .fmtsw target => target = if w.getLsbD 5 then .oscan1 else .normal
  | .zbs n | .nzbs n | .ecm n => n = (w.extractLsb' 5 4).toNat
  | .twopart opcode operand => opcode = (w.extractLsb' 5 4).toNat ∧ operand = (w.extractLsb' 9 4).toNat
  | .wantres value => value = w.getLsbD 5
  | .tapmove state | .settap state => state.code = (w.extractLsb' 5 4).toNat
  | .trans len => len = (w.extractLsb' 5 10).toNat

/-- The value a command returns beside its code (30_encoding R101). -/
def resultValue (i : Instr) (code : ResultCode) (s : State) : Bool :=
  match i with
  | .wantres _ => s.wantResult
  | .e2wtest => code == .ok
  | _ => false

/-- `INIT` and the commands that run it or a part of it, by the registers they may write (10_state R32). -/
def writesTap : Instr → Bool
  | .scan _ _ _ _ _ _ | .tapmove _ | .settap _ | .setidle | .e2w | .e2wtest | .init => true
  | _ => false
def writesFormat : Instr → Bool
  | .fmtsw _ | .oscan1 | .setidle | .e2w | .e2wtest | .init => true
  | _ => false
def writesWantResult : Instr → Bool
  | .wantres _ | .setidle | .e2w | .e2wtest | .init => true
  | _ => false
def writesFault : Instr → Bool
  | .zbs _ | .nzbs _ | .ecm _ | .twopart _ _ | .oscan1 | .setidle | .e2w | .e2wtest | .init => true
  | _ => false
def keepsBitCount : Instr → Bool
  | .pininit | .escape | .cycle _ _ | .fmtsw _ | .wantres _ | .settap _ => true
  | _ => false

end Sys2Proof.Stated
end

