-- ==== Sys2Proof/Certificates/Slice0/Obligations.lean ====
section
/-! DEFINITION. The statements for the provers. -/

open Sys2Proof Sys2Proof.Machine Sys2Proof.Stated

/-! ## Encoding and decoding -/

/-- R81 to R83, R86, R104: decoding the word of a well-formed instruction gives it back. -/
def Obligations.DecodeOfEncodeIsTheInstruction : Prop :=
  ∀ i : Instr, i.WellFormed → decode (encode i) = .ok i

/-- R104: a word has one meaning, and only one word has it. -/
def Obligations.EncodeOfDecodedIsTheWord : Prop :=
  ∀ (w : CmdWord) (i : Instr), decode w = .ok i → i.WellFormed ∧ encode i = w

/-- R81 to R88, R104: the decoder reads a row's command from a word exactly when the row's mask and match select
the word, its operands are the word's fields, and no two rows select one word. -/
def Obligations.DecoderAgreesWithOpcodeTable : Prop :=
  (∀ (w : CmdWord) (i : Instr), decode w = .ok i → fieldsAre w i ∧ ∃ row ∈ opcodeTable, i.mnemonic = row.mnemonic) ∧
  (∀ (w : CmdWord) (row : OpcodeRow), row ∈ opcodeTable →
    ((∃ i, decode w = .ok i ∧ i.mnemonic = row.mnemonic) ↔ w &&& row.mask = row.pattern)) ∧
  opcodeTable.Pairwise fun a b => ∀ w : CmdWord, ¬ (w &&& a.mask = a.pattern ∧ w &&& b.mask = b.pattern)

/-- Words written out from R81 to R83 and R87, one or more of each format. -/
def Obligations.SampleWordsDecode : Prop :=
  decode 0b00000000000000000000000000000000 = .ok .init ∧
  decode 0b00000000001000000001111100000001 = .ok (.scan false .idle true true 1 32) ∧
  decode 0b00000000000001010001111011100001 = .ok (.scan true .irPause true true 1 5) ∧
  decode 0b00000000000000000000000000100100 = .ok (.cycle true false) ∧
  decode 0b00000000000000000000000000100101 = .ok (.fmtsw .oscan1) ∧
  decode 0b00000000000000000000000101000111 = .ok (.zbs 10) ∧
  decode 0b00000000000000000001001001101010 = .ok (.twopart 3 9) ∧
  decode 0b00000000000000000000000000001011 = .ok (.wantres false) ∧
  decode 0b00000000000000000000000001010000 = .ok (.tapmove .drShift) ∧
  decode 0b00000000000000000000000011110001 = .ok (.trans 7) ∧
  decode 0b00000000000000000000000110010010 = .ok (.settap .idle)

/-- R84: a word with opcode 0x13 to 0x1F is rejected with the word as information; nothing else changes. -/
def Obligations.ReservedOpcodeIsRejected : Prop :=
  ∀ (s : State) (r : Request) (rest : List Request), s.cmdPort = r :: rest → s.fault = 0 →
    0x13 ≤ r.word.toNat % 32 →
    step s = .next
      { s with
        cmdPort := rest, out := r.out, inp := r.inp, str := r.str
        log := s.log ++ [⟨.rejIllegalCmd, r.word.toNat⟩]
        results := s.results ++ [⟨.rejIllegalCmd, false⟩] }

/-- R85: a legal opcode with a reserved bit set is rejected in the same way. -/
def Obligations.ReservedBitIsRejected : Prop :=
  ∀ (s : State) (r : Request) (rest : List Request), s.cmdPort = r :: rest → s.fault = 0 →
    ∀ row ∈ opcodeTable, r.word.toNat % 32 = row.pattern.toNat % 32 → r.word &&& row.mask ≠ row.pattern →
    step s = .next
      { s with
        cmdPort := rest, out := r.out, inp := r.inp, str := r.str
        log := s.log ++ [⟨.rejIllegalCmd, r.word.toNat⟩]
        results := s.results ++ [⟨.rejIllegalCmd, false⟩] }

/-! ## The step -/

/-- R80, R233, R11: a step takes the oldest request, with the buffers supplied with it, and runs the command
its word decodes to, once admission lets it run. The list of requests is the model's (log entry 1). -/
def Obligations.StepRunsTheDecodedCommand : Prop :=
  ∀ (s : State) (r : Request) (rest : List Request) (i : Instr), s.cmdPort = r :: rest → s.fault = 0 →
    decode r.word = .ok i → (s.initialized = true ∨ i = .init ∨ ∃ t, i = .settap t) →
    step s = exec i { s with cmdPort := rest, out := r.out, inp := r.inp, str := r.str }

/-- R247: between commands the block holds its state. The empty list is the model's (log entries 1, 2). -/
def Obligations.NoCommandLeavesTheState : Prop :=
  ∀ s : State, s.cmdPort = [] → step s = .next s

/-- R233: the three checks of admission, in their order. Taking the request from a list is log entry 1, a refusal as
a next state is log entry 8, and the value 0 beside a code that is not `OK` is log entry 15. -/
def Obligations.AdmissionChecksInOrder : Prop :=
  ∀ (s : State) (r : Request) (rest : List Request), s.cmdPort = r :: rest →
    let taken : State := { s with cmdPort := rest, out := r.out, inp := r.inp, str := r.str }
    (s.fault ≠ 0 →
      step s = .next { taken with results := s.results ++ [⟨.refusedFaulted, false⟩] }) ∧
    (s.fault = 0 → (∀ i, decode r.word ≠ .ok i) →
      step s = .next
        { taken with
          log := s.log ++ [⟨.rejIllegalCmd, r.word.toNat⟩]
          results := s.results ++ [⟨.rejIllegalCmd, false⟩] }) ∧
    (∀ i, s.fault = 0 → decode r.word = .ok i → s.initialized = false → i ≠ .init → (∀ t, i ≠ .settap t) →
      step s = .next { taken with results := s.results ++ [⟨.refusedUninit, false⟩] }) ∧
    (∀ i, s.fault = 0 → decode r.word = .ok i → (s.initialized = true ∨ i = .init ∨ ∃ t, i = .settap t) →
      step s = exec i taken)

/-- R237: once a fault is recorded, every command is refused with `REFUSED_FAULTED`, for any number of
steps, and nothing else happens. The requests taken are log entry 1, a refusal as a next state is log entry 8, the
value 0 of a refused command is log entry 15. -/
def Obligations.NothingRunsAfterAFault : Prop :=
  ∀ (k : Nat) (s : State), s.fault ≠ 0 →
    ∃ t : State, Sys2Proof.core.run k s = .next t ∧ s.SameRegisters t ∧ t.chan = s.chan ∧ t.log = s.log ∧
      t.results = s.results ++ List.replicate (min k s.cmdPort.length) ⟨.refusedFaulted, false⟩

/-- R230: every command ends in exactly one of four outcomes, with the result, log entry, state and channel
of its row. That a refusal is a state of the model is log entry 8; the request taken is log entry 1; the value 0 of a
rejected or refused command is log entry 15. -/
def Obligations.EveryCommandEndsInOneOfFourOutcomes : Prop :=
  ∀ (s : State) (r : Request) (rest : List Request), s.cmdPort = r :: rest →
    ∃ (t : State) (code : ResultCode) (value : Bool), step s = .next t ∧
      t.results = s.results ++ [⟨code, value⟩] ∧
      (code.kind = .completed → t.log = s.log ∧ t.fault = s.fault) ∧
      (code.kind = .rejected → ∃ info,
        t = { s with
              cmdPort := rest, out := r.out, inp := r.inp, str := r.str
              log := s.log ++ [⟨code, info⟩], results := s.results ++ [⟨code, false⟩] }) ∧
      (code.kind = .faulted → (∃ info, t.log = s.log ++ [⟨code, info⟩]) ∧ t.fault = code.toByte ∧
        (∃ emitted, t.chan = s.chan ++ emitted) ∧ t.rx = s.rx ∧ t.inp = r.inp) ∧
      (code.kind = .refused →
        t = { s with
              cmdPort := rest, out := r.out, inp := r.inp, str := r.str
              results := s.results ++ [⟨code, false⟩] })

/-- R101: every command ends with one result, whose value is the previous `want_result` for `WANTRES`, 1 for
a successful `E2WTEST`, and 0 for every other command; and the codes. That an `E2WTEST` that faults returns 0 is
the model's reading (log entry 15). -/
def Obligations.EveryCommandReturnsOneResult : Prop :=
  (∀ (i : Instr) (s : State), ∃ (t : State) (code : ResultCode), exec i s = .next t ∧
    t.results = s.results ++ [⟨code, resultValue i code s⟩]) ∧
  ResultCode.ok.toByte = 0x00 ∧ ResultCode.rejMultiField.toByte = 0x01 ∧
  ResultCode.rejOversize.toByte = 0x02 ∧ ResultCode.rejIllegalCmd.toByte = 0x03 ∧
  ResultCode.rejBadTmsString.toByte = 0x04 ∧ ResultCode.faultZbsRange.toByte = 0x10 ∧
  ResultCode.faultNzbsRange.toByte = 0x11 ∧ ResultCode.refusedUninit.toByte = 0x20 ∧
  ResultCode.refusedFaulted.toByte = 0x21

/-! ## Reset -/

/-- R43, R260: what block reset leaves, for any values of what it leaves open; `State.reset` is one of these
states (its open values are the model's: log entries 3, 4, 6; the record of R41's own clauses: 9). -/
def Obligations.BlockResetState : Prop :=
  (∀ (fmt : ScanFormat) (wr : Bool) (tx : BitVec 32) (tap : Tap) (rx : Memory) (p : Config.Params),
    let s := State.blockReset fmt wr tx tap rx p
    s.initialized = false ∧ s.fault = 0 ∧ (∀ t : Tap, t ∈ s.physSet) ∧ s.adapterPending = 0 ∧
    s.chanMisaligned = false ∧ s.countMisaligned = false ∧ s.log = [] ∧ s.chan = [] ∧ s.results = []) ∧
  (∃ fmt wr tx tap rx p, State.reset = State.blockReset fmt wr tx tap rx p)

/-- The invariant of the model holds after block reset, for every canonical `RX` of 1000 bytes. -/
def Obligations.BlockResetMeetsTheInvariant : Prop :=
  State.reset.Inv ∧
  ∀ (fmt : ScanFormat) (wr : Bool) (tx : BitVec 32) (tap : Tap) (rx : Memory) (p : Config.Params),
    rx.wf → rx.below 1000 → (State.blockReset fmt wr tx tap rx p).Inv

/-- Every step keeps the invariant: canonical memories, `RX` inside its 1000 bytes (20_memory R60, R64),
`fault` 0 or a fault code (10_state R38), a non-empty `phys_set` (R39). -/
def Obligations.StepKeepsTheInvariant : Prop :=
  ∀ s t : State, s.Inv → step s = .next t → t.Inv

/-! ## Packet encoder -/

/-- R120; the read is misaligned when bytes were pending (R266; log entry 9). `adapterIn` and `drawn` are the model's
(log entry 5). -/
def Obligations.PininitEmitsAndReadsItsStatus : Prop :=
  ∀ s : State, exec .pininit s = .next
    { s with
      chan := s.chan ++ [.write .pinInit, .read 1]
      physSet := Tap.all
      chanMisaligned := s.chanMisaligned || s.adapterPending != 0
      adapterIn := s.adapterIn.drop 1
      drawn := s.drawn + (1 - s.adapterIn.length)
      results := s.results ++ [⟨.ok, false⟩] }

/-- R121: opcode 0x03, format F0; the token, whatever the registers hold, and all sixteen TAP states possible. -/
def Obligations.EscapeEmitsItsToken : Prop :=
  encodeNat .escape = 0x03 ∧
  ∀ s : State, exec .escape s = .next
    { s with
      chan := s.chan ++ [.write .esc], physSet := Tap.all, results := s.results ++ [⟨.ok, false⟩] }

/-- R122: one cycle in the link's format, nothing read, one byte pending; `tx_bit_count` and `tap_state` stay. -/
def Obligations.CycleEmitsOneCycle : Prop :=
  ∀ (s : State) (tms tdi : Bool), exec (.cycle tms tdi) s = .next
    { s with
      chan := s.chan ++ [.write (.cyc s.scanFormat s.wantResult tms tdi)]
      physSet := physStep s.physSet tms
      adapterPending := s.adapterPending + 1
      results := s.results ++ [⟨.ok, false⟩] }

/-- R123 and property P1: opcode 0x05, format FB; the switch, and nothing at all when the format is the target
already. -/
def Obligations.FormatSwitchIsIdempotent : Prop :=
  encodeNat (.fmtsw .normal) = 0x05 ∧ encodeNat (.fmtsw .oscan1) = 0x25 ∧
  ∀ (s : State) (f : ScanFormat),
    (s.scanFormat ≠ f → exec (.fmtsw f) s = .next
      { s with
        chan := s.chan ++ [.write (.fsw f)], scanFormat := f, results := s.results ++ [⟨.ok, false⟩] }) ∧
    (s.scanFormat = f → exec (.fmtsw f) s = .next { s with results := s.results ++ [⟨.ok, false⟩] })

/-- R124: the dummy cycle in OSCAN1 only, then the check bytes of the format. -/
def Obligations.CheckSendsTheDummyCycleInOscan1 : Prop :=
  ∀ s : State, exec .check s = .next
    { afterEvents (checkEvents s.scanFormat s.wantResult) s with results := s.results ++ [⟨.ok, false⟩] }

/-- R93 to R97 and the OPEN table of 92: what is fixed of the tokens' bytes. -/
def Obligations.TokenBytesMeetTheirConstraints : Prop :=
  Token.pinInit.bytes ≠ [] ∧
  (Token.esc.bytes.length = 27 ∨ Token.esc.bytes.length = 28) ∧
  (∀ f, (Token.fsw f).bytes.length = 18) ∧ (Token.fsw .normal).bytes ≠ (Token.fsw .oscan1).bytes ∧
  (∀ f, (Token.chk f).bytes ≠ []) ∧
  (∀ fmt wr tms tdi tms' tdi', (Token.cyc fmt wr tms tdi).bytes = (Token.cyc fmt wr tms' tdi').bytes →
    tms = tms' ∧ tdi = tdi') ∧
  (∃ len, 0 < len ∧ ∀ fmt wr tms tdi, (Token.cyc fmt wr tms tdi).bytes.length = len)

/-! ## Bit-scan sequencer -/

/-- R140: a valid string is sent cycle by cycle, each byte read at once. -/
def Obligations.TransSendsItsString : Prop :=
  ∀ (s : State) (len : Nat), (∀ k < len, tmsByte (readByte .str k s)) →
    exec (.trans len) s = .next
      { afterEvents (immediateEvents s.scanFormat s.wantResult
          (byteSyms ((List.range len).map fun k => readByte .str k s))) s with
        results := s.results ++ [⟨.ok, false⟩] }

/-- R90: the first bad byte's index is the information of the rejection, nothing is emitted, and a string of
length 0 is legal and emits nothing. -/
def Obligations.TransRejectsABadString : Prop :=
  ∀ s : State,
    (∀ len k : Nat, k < len → ¬ tmsByte (readByte .str k s) → (∀ j < k, tmsByte (readByte .str j s)) →
      exec (.trans len) s = .next
        { s with
          log := s.log ++ [⟨.rejBadTmsString, k⟩], results := s.results ++ [⟨.rejBadTmsString, false⟩] }) ∧
    exec (.trans 0) s = .next { s with results := s.results ++ [⟨.ok, false⟩] }

/-- R142 on the range it accepts, with the count of 41_bitscan R149. -/
def Obligations.ZeroBitScanSendsItsString : Prop :=
  ∀ (s : State) (r : Nat), r ≤ 10 →
    exec (.zbs r) s = .next
      { afterEvents (immediateEvents s.scanFormat s.wantResult (zbsSyms r)) s with
        results := s.results ++ [⟨.ok, false⟩] } ∧
    (zbsSyms r).length = 4 * r + 1

/-- R143 on the range it accepts, with the count of R149. -/
def Obligations.NonZeroBitScanSendsItsString : Prop :=
  ∀ (s : State) (a : Nat), a ≤ 10 →
    exec (.nzbs a) s = .next
      { afterEvents (immediateEvents s.scanFormat s.wantResult (nzbsSyms a)) s with
        results := s.results ++ [⟨.ok, false⟩] } ∧
    (nzbsSyms a).length = a + 5

/-- R232, R236: a count above 10 is a fault: the code in `fault`, on the result port and with its count in the
log; nothing is emitted and nothing else changes. -/
def Obligations.BitScanCountAboveTenFaults : Prop :=
  ∀ (s : State) (n : Nat), 10 < n →
    exec (.zbs n) s = .next
      { s with
        fault := 0x10, log := s.log ++ [⟨.faultZbsRange, n⟩]
        results := s.results ++ [⟨.faultZbsRange, false⟩] } ∧
    exec (.nzbs n) s = .next
      { s with
        fault := 0x11, log := s.log ++ [⟨.faultNzbsRange, n⟩]
        results := s.results ++ [⟨.faultNzbsRange, false⟩] } ∧
    exec (.ecm n) s = .next
      { s with
        fault := 0x10, log := s.log ++ [⟨.faultZbsRange, n⟩]
        results := s.results ++ [⟨.faultZbsRange, false⟩] } ∧
    ∀ operand, exec (.twopart n operand) s = .next
      { s with
        fault := 0x11, log := s.log ++ [⟨.faultNzbsRange, n⟩]
        results := s.results ++ [⟨.faultNzbsRange, false⟩] }

/-- R144 on the range it accepts. -/
def Obligations.EnterControlModeSendsItsParts : Prop :=
  ∀ (s : State) (level : Nat), level ≤ 10 →
    exec (.ecm level) s = .next
      { afterEvents (immediateEvents s.scanFormat s.wantResult (ecmSyms level)) s with
        results := s.results ++ [⟨.ok, false⟩] } ∧
    (ecmSyms level).length = 4 * level + 10

/-- Property P4 (R144): `ECM` is observably `ZBS level`, `NZBS 1`, `TRANS "000"` one after the other. -/
def Obligations.EnterControlModeIsItsThreeCommands : Prop :=
  ∀ (s : State) (level : Nat), level ≤ 10 →
    (∀ k < 3, readByte .str k s = 0x30) →
    ∃ t u v w : State, exec (.ecm level) s = .next t ∧
      exec (.zbs level) s = .next u ∧ exec (.nzbs 1) u = .next v ∧ exec (.trans 3) v = .next w ∧
      { w with results := t.results } = t

/-- R145 when both counts are in range, in each format. -/
def Obligations.TwoPartSendsItsParts : Prop :=
  ∀ (s : State) (opcode operand : Nat), opcode ≤ 10 → operand ≤ 10 →
    exec (.twopart opcode operand) s = .next
      { afterEvents (twoPartEvents s.scanFormat s.wantResult opcode operand) s with
        results := s.results ++ [⟨.ok, false⟩] }

/-- R145, R236: an operand above 10 faults after the first part, which stays emitted. -/
def Obligations.TwoPartFaultsAfterItsFirstPart : Prop :=
  ∀ (s : State) (opcode operand : Nat), opcode ≤ 10 → 10 < operand →
    exec (.twopart opcode operand) s = .next
      { afterEvents (immediateEvents s.scanFormat s.wantResult (nzbsSyms opcode)) s with
        fault := 0x11, log := s.log ++ [⟨.faultNzbsRange, operand⟩]
        results := s.results ++ [⟨.faultNzbsRange, false⟩] }

/-- R146, R147: from IDLE the bit-scan strings stay in the DR column, end in IDLE, and take 0 and `a` clock
edges in Shift-DR. -/
def Obligations.BitScansStayOutOfTestLogicReset : Prop :=
  ∀ n : Nat,
    (∀ t ∈ tapTrace .idle (zbsSyms n) ++ tapTrace .idle (nzbsSyms n),
      t ∈ [Tap.idle, .drSelect, .drCapture, .drShift, .drExit1, .drUpdate]) ∧
    tapRun .idle (zbsSyms n) = .idle ∧ tapRun .idle (nzbsSyms n) = .idle ∧
    shiftEdges .idle (zbsSyms n) = 0 ∧ shiftEdges .idle (nzbsSyms n) = n

/-! ## Mode state machine -/

/-- R160: opcode 0x0B, format FB; the register takes the operand, the value returned is the one before. -/
def Obligations.WantResultReturnsItsOldValue : Prop :=
  encodeNat (.wantres false) = 0x0B ∧ encodeNat (.wantres true) = 0x2B ∧
  ∀ (s : State) (v : Bool), exec (.wantres v) s = .next
    { s with wantResult := v, results := s.results ++ [⟨.ok, s.wantResult⟩] }

/-- R161: in NORMAL the idle string and IDLE; in OSCAN1 the recovery as well, back in OSCAN1 with
`want_result` restored; and the cycle count of V58. -/
def Obligations.SetIdleForcesIdle : Prop :=
  ∀ s : State,
    (s.scanFormat = .oscan1 → ∀ n ∈ recoveryCounts s.params, n ≤ 10) →
    exec .setidle s = .next
      { afterEvents (setIdleEvents s.params s.scanFormat s.wantResult) s with
        tapState := .idle, results := s.results ++ [⟨.ok, false⟩] } ∧
    cycleCount (setIdleEvents s.params .normal s.wantResult) = 7 ∧
    cycleCount (setIdleEvents s.params .oscan1 s.wantResult) =
      60 + s.params.stfmt + s.params.oscan1Param + s.params.stmc + s.params.exitCmdLvl
        + (if s.params.e2wTouch then 7 else 0)

/-- R161, R166: the one-level `set_to_idle()` of the model is the recursive one of the rule. -/
def Obligations.SetToIdleMeetsItsRecursion : Prop :=
  ∀ s : State,
    let forced : State := { transitionsImmediate idleStr s with tapState := .idle }
    setToIdle s =
      if forced.scanFormat = .normal then .done forced
      else (setToIdle (formatSwitch .normal forced)).andThen (enterTwoWire setToIdle)

/-- R164: the star-command and the check packet first, then the switch. -/
def Obligations.Oscan1SwitchesTheLink : Prop :=
  ∀ s : State, s.params.stfmt ≤ 10 → s.params.oscan1Param ≤ 10 →
    exec .oscan1 s = .next
      { afterEvents (oscan1Events s.params s.scanFormat s.wantResult) s with
        scanFormat := .oscan1, results := s.results ++ [⟨.ok, false⟩] }

/-- R167: a fault inside its star-command leaves `scan_format` as it was. -/
def Obligations.Oscan1FaultKeepsTheFormat : Prop :=
  ∀ s : State, 10 < s.params.stfmt ∨ 10 < s.params.oscan1Param →
    ∃ t : State, exec .oscan1 s = .next t ∧ t.scanFormat = s.scanFormat ∧ t.fault = 0x11 ∧
      t.results = s.results ++ [⟨.faultNzbsRange, false⟩]

/-- R162: the bring-up with reconnect, from either format (the counts from OSCAN1 are log entry 18); `want_result` is
what it was, the value is 1, and from NORMAL it takes 42 + s + p cycles (V63). -/
def Obligations.TwoWireTestBringsUpTheLink : Prop :=
  ∀ s : State, (∀ n ∈ bringUpCounts s.params s.scanFormat .e2wtest, n ≤ 10) →
    exec .e2wtest s = .next
      { afterEvents (e2wTestEvents s.params s.scanFormat) s with
        scanFormat := .oscan1, tapState := .idle, results := s.results ++ [⟨.ok, true⟩] } ∧
    cycleCount (e2wTestEvents s.params .normal) = 42 + s.params.stfmt + s.params.oscan1Param

/-- R163: two-wire mode re-entered, from either format; from NORMAL it takes 46 + s + p + m + e cycles, and 7
more with the reconnect string (V64, V65). -/
def Obligations.TwoWireReentersTheLink : Prop :=
  ∀ s : State, (∀ n ∈ bringUpCounts s.params s.scanFormat .e2w, n ≤ 10) →
    exec .e2w s = .next
      { afterEvents (e2wEvents s.params s.scanFormat) s with
        scanFormat := .oscan1, tapState := .idle, results := s.results ++ [⟨.ok, false⟩] } ∧
    cycleCount (e2wEvents s.params .normal) =
      46 + s.params.stfmt + s.params.oscan1Param + s.params.stmc + s.params.exitCmdLvl
        + (if s.params.e2wTouch then 7 else 0)

/-- R165, R168: the token stream and the end state of `INIT`, from any state; no byte is pending after it, whatever was
pending before (log entry 10). -/
def Obligations.InitBringsUpTheLink : Prop :=
  ∀ s : State, s.params.stfmt ≤ 10 → s.params.oscan1Param ≤ 10 →
    exec .init s = .next
      { afterEvents (initEvents s.params) s with
        scanFormat := .oscan1, wantResult := true, tapState := .idle, initialized := true
        txBitCount := BitVec.ofNat 32 (49 + s.params.stfmt + s.params.oscan1Param)
        physSet := [.idle]
        adapterPending := 0
        results := s.results ++ [⟨.ok, false⟩] } ∧
    cycleCount (initEvents s.params) = 49 + s.params.stfmt + s.params.oscan1Param

/-- R43, R262: what `INIT` does depends on no register that block reset leaves open, and overwrites a `SETTAP`
before it. -/
def Obligations.InitForgetsTheOpenRegisters : Prop :=
  ∀ (s : State) (fmt : ScanFormat) (wr : Bool) (tx : BitVec 32) (tap : Tap),
    exec .init { s with scanFormat := fmt, wantResult := wr, txBitCount := tx, tapState := tap } = exec .init s

/-- R232, R236, R238: a bring-up command faults exactly when a parameter it gives a bit-scan exceeds 10. The first such
count, in program order, is in the log; the events before its check stay on the channel and are counted, and the
registers are as they were at the check: `initialized` as before, `scan_format` the one at the check, and, but for
`OSCAN1`, `tap_state` IDLE and `want_result` 0. As after every stretch of events (`afterEvents`), `phys_set` has stepped
(10_state R39), the answers are used up (log entry 5), and reads with bytes left pending set `chan_misaligned` (R266; log
entry 9). The
value 0 beside the code is log entry 15; that an `E2WTEST` from OSCAN1 also faults on the counts of the nested `E2W` is
log entry 18. -/
def Obligations.BringUpFaultsOnTheFirstBadParameter : Prop :=
  ∀ (s : State) (i : Instr), i ∈ [Instr.oscan1, .setidle, .e2w, .e2wtest, .init] →
    let course := upToFault (bringUpPieces s.params s.scanFormat s.wantResult i)
    course.2.map Prod.fst = (bringUpCounts s.params s.scanFormat i).find? (10 < ·) ∧
    (course.2 = none → ∃ t : State, exec i s = .next t ∧
      t.chan = s.chan ++ course.1 ∧ t.fault = s.fault ∧ t.log = s.log ∧ ∃ v, t.results = s.results ++ [⟨.ok, v⟩]) ∧
    ∀ n fmt, course.2 = some (n, fmt) → exec i s = .next
      { afterEvents course.1 s with
        scanFormat := fmt
        wantResult := if i = .oscan1 then s.wantResult else false
        txBitCount := (if i = .init then 0 else s.txBitCount) + BitVec.ofNat 32 (cycleCount course.1)
        tapState := if i = .oscan1 then s.tapState else .idle
        fault := 0x11
        log := s.log ++ [⟨.faultNzbsRange, n⟩]
        results := s.results ++ [⟨.faultNzbsRange, false⟩] }

/-- R39, R161, R168: a completed `SETIDLE`, `E2WTEST`, `E2W` or `INIT` ends in IDLE and TAP-synchronised, whatever
the TAP was in. -/
def Obligations.BringUpSynchronisesTheTap : Prop :=
  ∀ (s t : State) (i : Instr) (v : Bool), i ∈ [Instr.setidle, .e2wtest, .e2w, .init] → s.physSet ≠ [] →
    exec i s = .next t → t.results = s.results ++ [⟨.ok, v⟩] → t.tapState = .idle ∧ t.Synchronised

/-- R271: the idle string passes Test-Logic-Reset and ends in IDLE from every state, so from every non-empty set. -/
def Obligations.IdleStringPassesTestLogicReset : Prop :=
  (∀ t : Tap, Tap.reset ∈ tapTrace t idleSyms ∧ tapRun t idleSyms = .idle) ∧
  ∀ phys : List Tap, phys ≠ [] → physRun phys idleSyms = [.idle]

/-! ## TAP tracker and scan executor -/

/-- R190, R99: a pair of the table sends its string with the reads deferred and moves `tap_state`; any other pair
is a no-op. -/
def Obligations.TapMoveFollowsTheTable : Prop :=
  ∀ (s : State) (goal : Tap), exec (.tapmove goal) s = .next
    (match moveSyms s.tapState goal with
     | some syms =>
       { s with
         chan := s.chan ++ deferredEvents s.scanFormat s.wantResult syms
         txBitCount := s.txBitCount + BitVec.ofNat 32 syms.length
         tapState := goal
         physSet := physRun s.physSet syms
         adapterPending := s.adapterPending + syms.length
         results := s.results ++ [⟨.ok, false⟩] }
     | none => { s with results := s.results ++ [⟨.ok, false⟩] })

/-- R191, R192: every string of the table takes the TAP from its start to its goal, and the longest preamble and
postamble are `MAX_PREAMBLE` and `MAX_POSTAMBLE`. -/
def Obligations.TableStringsReachTheirGoals : Prop :=
  (∀ row ∈ moveTable, tapRun row.1 row.2.2 = row.2.1) ∧
  (∀ row ∈ moveTable, row.2.2.length ≤ Config.maxPreamble ∧
    (row.2.1 ≠ .drShift → row.2.1 ≠ .irShift → row.2.2.length ≤ Config.maxPostamble)) ∧
  (∃ row ∈ moveTable, row.2.2.length = Config.maxPreamble) ∧
  Config.maxScanBits = 992

/-- R203 to R205: the field count first, then the capacity; a rejected request changes nothing else. -/
def Obligations.ScanRejectsBadRequests : Prop :=
  ∀ (s : State) (ir : Bool) (goal : Tap) (hasOut hasIn : Bool) (numFields n : Nat),
    (numFields ≠ 1 → exec (.scan ir goal hasOut hasIn numFields n) s = .next
      { s with
        log := s.log ++ [⟨.rejMultiField, numFields⟩]
        results := s.results ++ [⟨.rejMultiField, false⟩] }) ∧
    (numFields = 1 → 993 ≤ n → exec (.scan ir goal hasOut hasIn numFields n) s = .next
      { s with
        log := s.log ++ [⟨.rejOversize, n⟩], results := s.results ++ [⟨.rejOversize, false⟩] })

/-- R200, R206 to R214: an accepted scan. The stream is its cycles and one read of `N` bytes; `answers` are the
adapter's, the model's list first (log entry 5); `RX` and `IN` hold what R211 and R212 say; everything not named
is as it was. The two premises are the model's invariant. -/
def Obligations.ScanRunsItsSevenSteps : Prop :=
  ∀ (s : State) (ir : Bool) (goal : Tap) (hasOut hasIn : Bool) (n : Nat), n ≤ 992 → s.rx.wf → s.inp.wf →
    let len := scanLength ir n goal s.tapState
    let pre := (scanPre ir s.tapState).length
    ∃ (answers : List Byte) (rx inp : Memory),
      exec (.scan ir goal hasOut hasIn 1 n) s = .next
        { s with
          chan := s.chan ++ scanCycles ir goal hasOut n s ++ [.read len]
          txBitCount := BitVec.ofNat 32 (pre + (scanPost ir n goal s.tapState).length)
          tapState := scanEnd ir n goal s.tapState
          rx := rx
          inp := inp
          physSet := physRun s.physSet (scanTms ir goal n s.tapState)
          chanMisaligned := s.chanMisaligned || s.adapterPending != 0
          countMisaligned := s.countMisaligned || s.adapterPending != 0
          adapterIn := s.adapterIn.drop len
          drawn := s.drawn + (len - s.adapterIn.length)
          results := s.results ++ [⟨.ok, false⟩] } ∧
      answers.length = len ∧
      (∀ k < len, k < s.adapterIn.length → answers[k]? = s.adapterIn[k]?) ∧
      (∀ k, rx.read k = if k < len then answers.getD k 0 else s.rx.read k) ∧
      (hasIn = false → inp = s.inp) ∧
      (hasIn = true → ∀ i, bitOf inp i =
        if i < n then (answers.getD (i + pre) 0).getLsbD 7 else bitOf s.inp i)

/-- R211, R219: an accepted scan emits cycles and then makes one read, of as many bytes as there were cycles, which is
`bit_count` plus `tx_bit_count` and never exceeds `RX_CAPACITY`; `tx_bit_count` is the cycles of the preamble, 0 or 2 to
6, and of the postamble, 0 to 2, between which the payload's stand. -/
def Obligations.ScanReadLengthFitsTheBuffer : Prop :=
  ∀ (s : State) (ir : Bool) (goal : Tap) (hasOut hasIn : Bool) (n : Nat), n ≤ 992 →
    ∃ (t : State) (e : List ChanEvent), exec (.scan ir goal hasOut hasIn 1 n) s = .next t ∧
      t.chan = s.chan ++ e ++ [.read (cycleCount e)] ∧ (∀ x ∈ e, x.isCycle = true) ∧
      cycleCount e = n + t.txBitCount.toNat ∧ cycleCount e ≤ 1000 ∧
      ∃ pre payload post : List ChanEvent, e = pre ++ payload ++ post ∧
        payload.length = n ∧ t.txBitCount.toNat = pre.length + post.length ∧
        pre.length = (scanPre ir s.tapState).length ∧ post.length = (scanPost ir n goal s.tapState).length ∧
        pre.length ∈ [0, 2, 3, 4, 5, 6] ∧ post.length ∈ [0, 1, 2]

/-- Property P2 (R218): with an adapter whose answer to cycle `k` has bit 7 equal to `x k`, bit `i` of `IN` is
`x (i + pre)`. -/
def Obligations.ScanReconstructsTheResponseBits : Prop :=
  ∀ (s : State) (ir : Bool) (goal : Tap) (hasOut : Bool) (n : Nat) (x : Nat → Bool),
    1 ≤ n → n ≤ 992 → s.rx.wf → s.inp.wf → scanLength ir n goal s.tapState ≤ s.adapterIn.length →
    (∀ k < scanLength ir n goal s.tapState, (s.adapterIn.getD k 0).getLsbD 7 = x k) →
    ∃ t : State, exec (.scan ir goal hasOut true 1 n) s = .next t ∧
      ∀ i < n, bitOf t.inp i = x (i + (scanPre ir s.tapState).length)

/-- R191, R263 to R265: a scan from IDLE, a PAUSE state or its own shift state keeps the block TAP-synchronised,
whatever its end state. -/
def Obligations.ScanKeepsTheTapSynchronised : Prop :=
  ∀ (s t : State) (ir : Bool) (goal : Tap) (hasOut hasIn : Bool) (numFields n : Nat), s.Synchronised →
    s.tapState ∈ [Tap.idle, .drPause, .irPause, scanShift ir] →
    exec (.scan ir goal hasOut hasIn numFields n) s = .next t → t.Synchronised

/-- R263: from any other tracked state the preamble is a no-op, and a scan with payload still sets EXIT1 before its
postamble. -/
def Obligations.ScanFromElsewhereShiftsWhereItIs : Prop :=
  ∀ (s : State) (ir : Bool) (goal : Tap) (hasOut hasIn : Bool) (n : Nat), 1 ≤ n → n ≤ 992 →
    s.tapState ∉ [Tap.idle, .drPause, .irPause, scanShift ir] →
    ∃ t : State, exec (.scan ir goal hasOut hasIn 1 n) s = .next t ∧
      t.chan = s.chan ++ payloadEvents s.scanFormat s.wantResult hasOut n s.out
        ++ deferredEvents s.scanFormat s.wantResult ((moveSyms (scanExit1 ir) goal).getD [])
        ++ [.read (n + ((moveSyms (scanExit1 ir) goal).getD []).length)] ∧
      t.tapState = (if (moveSyms (scanExit1 ir) goal).isSome then goal else scanExit1 ir)

/-- R266, R41: only `CYCLE` and `TAPMOVE` leave response bytes pending; every other command leaves an aligned channel
aligned. A read made while bytes are left pending sets `chan_misaligned` (R266; that the read's own bytes are not meant
is log entry 9), and without such a read the flag stays. What R41 itself names, recorded apart (log entry 9), is set by
a scan that starts with bytes pending, and changed by no other command. -/
def Obligations.OnlyCycleAndTapMoveLeaveBytesPending : Prop :=
  (∀ (s t : State) (i : Instr), (∀ a b, i ≠ .cycle a b) → (∀ g, i ≠ .tapmove g) → s.Aligned →
    exec i s = .next t → t.Aligned) ∧
  (∀ (s t : State) (i : Instr) (e : List ChanEvent) (n : Nat), s.adapterPending ≠ 0 → exec i s = .next t →
    t.chan = s.chan ++ e → .read n ∈ e → t.chanMisaligned = true) ∧
  (∀ (s t : State) (i : Instr) (e : List ChanEvent), exec i s = .next t → t.chan = s.chan ++ e →
    (s.adapterPending = 0 ∨ ∀ n, .read n ∉ e) → t.chanMisaligned = s.chanMisaligned) ∧
  (∀ (s t : State) (i : Instr), (∀ ir goal hasOut hasIn nf n, i ≠ .scan ir goal hasOut hasIn nf n) →
    exec i s = .next t → t.countMisaligned = s.countMisaligned) ∧
  (∀ (s t : State) (ir : Bool) (goal : Tap) (hasOut hasIn : Bool) (n : Nat), n ≤ 992 →
    exec (.scan ir goal hasOut hasIn 1 n) s = .next t →
    t.chanMisaligned = (s.chanMisaligned || s.adapterPending != 0) ∧
    t.countMisaligned = (s.countMisaligned || s.adapterPending != 0))

/-- R217: opcode 0x12, format F4; admitted while `initialized` is 0; `tap_state` and the result, nothing else. -/
def Obligations.SetTapWritesTheTrackedState : Prop :=
  ∀ (s : State) (x : Tap),
    encodeNat (.settap x) = 0x12 + x.code * 2 ^ 5 ∧
    (s.fault = 0 → admission (encode (.settap x)) s = .run (.settap x)) ∧
    exec (.settap x) s = .next
      { s with tapState := x, results := s.results ++ [⟨.ok, false⟩] }

/-! ## Memory and ports -/

/-- R63: writing an input bit changes that bit only, and the commands other than `SCAN` leave `RX` (and `IN`)
unchanged. -/
def Obligations.InputBitWriteKeepsTheOtherBits : Prop :=
  (∀ (m : Memory) (i j : Nat) (b : Bool), m.wf →
    bitOf (m.setBit i b) j = if j = i then b else bitOf m j) ∧
  (∀ (s t : State) (i : Instr), (∀ ir e ho hi nf n, i ≠ .scan ir e ho hi nf n) → exec i s = .next t →
    t.rx = s.rx ∧ t.inp = s.inp)

/-- 20_memory R60, 10_state R45: no command writes `OUT`, `STR` or a parameter; and none touches the requests that wait,
a list that is the model's (log entry 1). -/
def Obligations.InputsAreNeverWritten : Prop :=
  ∀ (s t : State) (i : Instr), exec i s = .next t →
    t.out = s.out ∧ t.str = s.str ∧ t.params = s.params ∧ t.cmdPort = s.cmdPort

/-- 30_encoding R100: the fields of the status word; ghost state is not on it. -/
def Obligations.StatusWordShowsTheRegisters : Prop :=
  ∀ s : State,
    s.statusWord.getLsbD 0 = s.initialized ∧
    s.statusWord.getLsbD 1 = (s.scanFormat == .oscan1) ∧
    s.statusWord.getLsbD 2 = s.wantResult ∧
    (s.statusWord.extractLsb' 3 4).toNat = s.tapState.code ∧
    s.statusWord.getLsbD 7 = false ∧
    s.statusWord.extractLsb' 8 8 = s.fault ∧
    s.statusWord.extractLsb' 16 32 = s.txBitCount ∧
    s.statusWord.extractLsb' 48 16 = 0 ∧
    ∀ phys pending misaligned counted, (s.withGhost phys pending misaligned counted).statusWord = s.statusWord

/-! ## Whole-machine rules -/

/-- 10_state R32 to R38: a register changes only by the commands that write it; `CHECK` counts in OSCAN1 only
(40_packet_encoder R126), and `fault` is written by the commands with a bit-scan in them (60_exceptions R232). -/
def Obligations.RegistersChangeOnlyByTheirWriters : Prop :=
  ∀ (s t : State) (i : Instr), exec i s = .next t →
    (writesTap i = false → t.tapState = s.tapState) ∧
    (writesFormat i = false → t.scanFormat = s.scanFormat) ∧
    (writesWantResult i = false → t.wantResult = s.wantResult) ∧
    (keepsBitCount i = true ∨ (i = .check ∧ s.scanFormat = .normal) → t.txBitCount = s.txBitCount) ∧
    (i ≠ .init → t.initialized = s.initialized) ∧
    (writesFault i = false → t.fault = s.fault)

/-- R37: `initialized` is set by an `INIT` that completes and by nothing else, and nothing clears it. -/
def Obligations.InitializedIsSetByACompletedInit : Prop :=
  ∀ (s t : State) (i : Instr), exec i s = .next t →
    (t.initialized = true ↔
      s.initialized = true ∨ (i = .init ∧ t.results = s.results ++ [⟨.ok, false⟩]))

/-- 10_state section 3: ghost values never change a channel byte, a result, a log entry or a register: two states
that differ only in them step to states that differ only in them. -/
def Obligations.GhostValuesChangeNothing : Prop :=
  ∀ (s t : State) (phys : List Tap) (pending : Nat) (misaligned counted : Bool), step s = .next t →
    ∃ phys' pending' misaligned' counted',
      step (s.withGhost phys pending misaligned counted) = .next (t.withGhost phys' pending' misaligned' counted')

/-- R34: `want_result` is an argument of the cycle patterns and nothing else: two states that differ only in it give
the same events but for that argument, and the same everything else. -/
def Obligations.WantResultSelectsCyclePatternsOnly : Prop :=
  ∀ (s t : State) (i : Instr) (wr : Bool), (∀ v, i ≠ .wantres v) → exec i s = .next t →
    ∃ t' : State, exec i { s with wantResult := wr } = .next t' ∧
      t'.chan.map withoutWr = t.chan.map withoutWr ∧
      { t' with chan := t.chan, wantResult := t.wantResult } = t
end

