-- ==== Sys2Proof/Laws/Memory.lean ====
section
/-! SUPPORT. What the operations on one memory do, and that each keeps the canonical form. -/

namespace Sys2Proof.Machine

@[simp] theorem Memory.read_nil (a : Nat) : Memory.read [] a = unlistedByte := rfl

theorem Memory.read_of_forall_ne {m : Memory} {a : Nat} (h : ∀ c ∈ m, c.1 ≠ a) :
    Memory.read m a = unlistedByte := by
  induction m with
  | nil => rfl
  | cons c m ih =>
    simp only [Memory.read, if_neg (h c (by simp))]
    exact ih fun d hd => h d (by simp [hd])

theorem Memory.wf_cons {c : Host.Cell} {m : Memory} :
    Memory.wf (c :: m) ↔ (∀ d ∈ m, c.1 < d.1) ∧ c.2 ≠ unlistedByte ∧ Memory.wf m := by
  simp only [Memory.wf, List.pairwise_cons, List.forall_mem_cons]
  tauto

theorem Memory.mem_write {m : Memory} {a : Nat} {b : Byte} {c : Host.Cell}
    (h : c ∈ Memory.write m a b) : c ∈ m ∨ (c = (a, b) ∧ b ≠ unlistedByte) := by
  induction m with
  | nil =>
    simp only [Memory.write] at h
    split at h <;> simp_all
  | cons d m ih =>
    simp only [Memory.write] at h
    split at h
    · split at h <;> simp_all
      tauto
    · split at h
      · split at h <;> simp_all
        tauto
      · rcases List.mem_cons.1 h with h | h
        · simp [h]
        · rcases ih h with h | h
          · simp [h]
          · exact .inr h

theorem Memory.wf_write {m : Memory} (h : m.wf) (a : Nat) (b : Byte) : (Memory.write m a b).wf := by
  induction m with
  | nil =>
    simp only [Memory.write]
    split <;> simp_all [Memory.wf]
  | cons c m ih =>
    obtain ⟨hlt, hne, hm⟩ := Memory.wf_cons.1 h
    simp only [Memory.write]
    split
    · rename_i hac
      split
      · exact h
      · rename_i hb
        refine Memory.wf_cons.2 ⟨fun d hd => ?_, hb, h⟩
        rcases List.mem_cons.1 hd with rfl | hd
        · exact hac
        · exact hac.trans (hlt d hd)
    · split
      · rename_i hac
        split
        · exact hm
        · rename_i hb
          exact Memory.wf_cons.2 ⟨fun d hd => by simpa [hac] using hlt d hd, hb, hm⟩
      · rename_i h1 h2
        refine Memory.wf_cons.2 ⟨fun d hd => ?_, hne, ih hm⟩
        rcases Memory.mem_write hd with hd | ⟨rfl, -⟩
        · exact hlt d hd
        · simp only; omega

/-- A read after a write: the written byte at its index, the old byte elsewhere. -/
theorem Memory.read_write {m : Memory} (h : m.wf) (a : Nat) (b : Byte) (k : Nat) :
    (Memory.write m a b).read k = if k = a then b else m.read k := by
  induction m with
  | nil =>
    simp only [Memory.write]
    by_cases hb : b = unlistedByte <;> by_cases hk : k = a <;>
      simp_all [Memory.read, eq_comm]
  | cons c m ih =>
    obtain ⟨hlt, hne, hm⟩ := Memory.wf_cons.1 h
    have above : ∀ j, j ≤ c.1 → Memory.read m j = unlistedByte := fun j hj =>
      Memory.read_of_forall_ne fun d hd => by have := hlt d hd; omega
    simp only [Memory.write]
    split
    · rename_i hac
      have hca : c.1 ≠ a := by omega
      split
      · rename_i hb
        by_cases hk : k = a
        · subst hk; simp [Memory.read, hca, hb, above _ hac.le]
        · simp [hk]
      · by_cases hk : k = a
        · subst hk; simp [Memory.read]
        · simp [Memory.read, hk, Ne.symm hk]
    · split
      · rename_i hac
        split
        · rename_i hb
          by_cases hk : k = a
          · subst hk; simp [hb, above _ hac.le]
          · have : c.1 ≠ k := by omega
            simp [Memory.read, hk, this]
        · by_cases hk : k = a
          · subst hk; simp [Memory.read]
          · have : c.1 ≠ k := by omega
            simp [Memory.read, hk, Ne.symm hk, this]
      · rename_i h1 h2
        by_cases hk : c.1 = k
        · have : k ≠ a := by omega
          simp [Memory.read, hk, this]
        · simp [Memory.read, hk, ih hm]

theorem Memory.below_write {m : Memory} {n : Nat} (h : m.below n) {a : Nat} (ha : a < n) (b : Byte) :
    Memory.below n (Memory.write m a b) := by
  intro c hc
  rcases Memory.mem_write hc with hc | ⟨rfl, -⟩
  · exact h c hc
  · exact ha

theorem Memory.wf_writeList {m : Memory} (h : m.wf) (a : Nat) (bs : List Byte) :
    (Memory.writeList m a bs).wf := by
  induction bs generalizing m a with
  | nil => exact h
  | cons b bs ih => exact ih (Memory.wf_write h a b) (a + 1)

theorem Memory.below_writeList {m : Memory} {n : Nat} (h : m.below n) {a : Nat} {bs : List Byte}
    (ha : a + bs.length ≤ n) : Memory.below n (Memory.writeList m a bs) := by
  induction bs generalizing m a with
  | nil => exact h
  | cons b bs ih =>
    simp only [List.length_cons] at ha
    exact ih (Memory.below_write h (by omega) b) (by omega)

theorem Memory.wf_nil : Memory.wf [] := by simp [Memory.wf]

theorem Memory.wf_ofBytes (bs : List Byte) : (Memory.ofBytes bs).wf :=
  Memory.wf_writeList Memory.wf_nil 0 bs

/-- A read after a list of bytes is written at `a`. -/
theorem Memory.read_writeList {m : Memory} (h : m.wf) (a : Nat) (bs : List Byte) (k : Nat) :
    (Memory.writeList m a bs).read k =
      if a ≤ k ∧ k < a + bs.length then bs.getD (k - a) unlistedByte else m.read k := by
  induction bs generalizing m a with
  | nil => simp [Memory.writeList]
  | cons b bs ih =>
    simp only [Memory.writeList, ih (Memory.wf_write h a b), Memory.read_write h, List.length_cons]
    by_cases hk : k = a
    · subst hk; simp
    · by_cases h1 : a + 1 ≤ k ∧ k < a + 1 + bs.length
      · have h2 : a ≤ k ∧ k < a + (bs.length + 1) := by omega
        have h3 : k - a = (k - (a + 1)) + 1 := by omega
        rw [if_pos h1, if_pos h2, h3, List.getD_cons_succ]
      · have h2 : ¬ (a ≤ k ∧ k < a + (bs.length + 1)) := by omega
        rw [if_neg h1, if_neg h2, if_neg hk]

theorem withBit_getLsbD (old : Byte) (k : Nat) (hk : k < 8) (b : Bool) (j : Nat) (hj : j < 8) :
    (withBit old k b).getLsbD j = if j = k then b else old.getLsbD j := by
  have h1 : ∀ k < 8, ∀ j < 8, ((1 : Byte) <<< k).getLsbD j = decide (j = k) := by decide
  have h2 : ∀ (b : Bool), ∀ k < 8, ∀ j < 8,
      ((BitVec.ofBool b).setWidth 8 <<< k).getLsbD j = (b && decide (j = k)) := by decide
  simp only [withBit, BitVec.getLsbD_or, BitVec.getLsbD_and, BitVec.getLsbD_not, h1 k hk j hj,
    h2 b k hk j hj, hj]
  by_cases h : j = k <;> simp [h]

theorem Memory.wf_setBit {m : Memory} (h : m.wf) (i : Nat) (b : Bool) : (Memory.setBit m i b).wf :=
  Memory.wf_write h _ _

end Sys2Proof.Machine
end

