-- ==== Sys2Proof/Laws/State.lean ====
section
/-! SUPPORT. One lemma per field and update of the state, so that no later proof unfolds an update. -/

namespace Sys2Proof.Machine

@[simp] theorem emit_scanFormat (t : Token) (s : State) : (emit t s).scanFormat = s.scanFormat := rfl
@[simp] theorem emit_wantResult (t : Token) (s : State) : (emit t s).wantResult = s.wantResult := rfl
@[simp] theorem emit_txBitCount (t : Token) (s : State) : (emit t s).txBitCount = s.txBitCount := rfl
@[simp] theorem emit_tapState (t : Token) (s : State) : (emit t s).tapState = s.tapState := rfl
@[simp] theorem emit_initialized (t : Token) (s : State) : (emit t s).initialized = s.initialized := rfl
@[simp] theorem emit_fault (t : Token) (s : State) : (emit t s).fault = s.fault := rfl
@[simp] theorem emit_rx (t : Token) (s : State) : (emit t s).rx = s.rx := rfl
@[simp] theorem emit_out (t : Token) (s : State) : (emit t s).out = s.out := rfl
@[simp] theorem emit_inp (t : Token) (s : State) : (emit t s).inp = s.inp := rfl
@[simp] theorem emit_str (t : Token) (s : State) : (emit t s).str = s.str := rfl
@[simp] theorem emit_cmdPort (t : Token) (s : State) : (emit t s).cmdPort = s.cmdPort := rfl
@[simp] theorem emit_chan (t : Token) (s : State) : (emit t s).chan = s.chan ++ [.write t] := rfl
@[simp] theorem emit_log (t : Token) (s : State) : (emit t s).log = s.log := rfl
@[simp] theorem emit_results (t : Token) (s : State) : (emit t s).results = s.results := rfl
@[simp] theorem emit_physSet (t : Token) (s : State) : (emit t s).physSet = physAfter s.physSet t := rfl
@[simp] theorem emit_adapterPending (t : Token) (s : State) : (emit t s).adapterPending = s.adapterPending + t.responses := rfl
@[simp] theorem emit_countMisaligned (t : Token) (s : State) : (emit t s).countMisaligned = s.countMisaligned := rfl
@[simp] theorem emit_chanMisaligned (t : Token) (s : State) : (emit t s).chanMisaligned = s.chanMisaligned := rfl
@[simp] theorem emit_adapterIn (t : Token) (s : State) : (emit t s).adapterIn = s.adapterIn := rfl
@[simp] theorem emit_drawn (t : Token) (s : State) : (emit t s).drawn = s.drawn := rfl
@[simp] theorem emit_params (t : Token) (s : State) : (emit t s).params = s.params := rfl

@[simp] theorem afterRead_scanFormat (n : Nat) (s : State) : (afterRead n s).scanFormat = s.scanFormat := rfl
@[simp] theorem afterRead_wantResult (n : Nat) (s : State) : (afterRead n s).wantResult = s.wantResult := rfl
@[simp] theorem afterRead_txBitCount (n : Nat) (s : State) : (afterRead n s).txBitCount = s.txBitCount := rfl
@[simp] theorem afterRead_tapState (n : Nat) (s : State) : (afterRead n s).tapState = s.tapState := rfl
@[simp] theorem afterRead_initialized (n : Nat) (s : State) : (afterRead n s).initialized = s.initialized := rfl
@[simp] theorem afterRead_fault (n : Nat) (s : State) : (afterRead n s).fault = s.fault := rfl
@[simp] theorem afterRead_rx (n : Nat) (s : State) : (afterRead n s).rx = s.rx := rfl
@[simp] theorem afterRead_out (n : Nat) (s : State) : (afterRead n s).out = s.out := rfl
@[simp] theorem afterRead_inp (n : Nat) (s : State) : (afterRead n s).inp = s.inp := rfl
@[simp] theorem afterRead_str (n : Nat) (s : State) : (afterRead n s).str = s.str := rfl
@[simp] theorem afterRead_cmdPort (n : Nat) (s : State) : (afterRead n s).cmdPort = s.cmdPort := rfl
@[simp] theorem afterRead_chan (n : Nat) (s : State) : (afterRead n s).chan = s.chan ++ [.read n] := rfl
@[simp] theorem afterRead_log (n : Nat) (s : State) : (afterRead n s).log = s.log := rfl
@[simp] theorem afterRead_results (n : Nat) (s : State) : (afterRead n s).results = s.results := rfl
@[simp] theorem afterRead_physSet (n : Nat) (s : State) : (afterRead n s).physSet = s.physSet := rfl
@[simp] theorem afterRead_adapterPending (n : Nat) (s : State) : (afterRead n s).adapterPending = s.adapterPending - n := rfl
@[simp] theorem afterRead_countMisaligned (n : Nat) (s : State) : (afterRead n s).countMisaligned = (s.countMisaligned || decide (s.adapterPending < n)) := rfl
@[simp] theorem afterRead_chanMisaligned (n : Nat) (s : State) : (afterRead n s).chanMisaligned = (s.chanMisaligned || s.adapterPending != n) := rfl
@[simp] theorem afterRead_adapterIn (n : Nat) (s : State) : (afterRead n s).adapterIn = s.adapterIn.drop n := rfl
@[simp] theorem afterRead_drawn (n : Nat) (s : State) : (afterRead n s).drawn = s.drawn + (n - s.adapterIn.length) := rfl
@[simp] theorem afterRead_params (n : Nat) (s : State) : (afterRead n s).params = s.params := rfl

@[simp] theorem logEntry_scanFormat (c : ResultCode) (k : Nat) (s : State) : (logEntry c k s).scanFormat = s.scanFormat := rfl
@[simp] theorem logEntry_wantResult (c : ResultCode) (k : Nat) (s : State) : (logEntry c k s).wantResult = s.wantResult := rfl
@[simp] theorem logEntry_txBitCount (c : ResultCode) (k : Nat) (s : State) : (logEntry c k s).txBitCount = s.txBitCount := rfl
@[simp] theorem logEntry_tapState (c : ResultCode) (k : Nat) (s : State) : (logEntry c k s).tapState = s.tapState := rfl
@[simp] theorem logEntry_initialized (c : ResultCode) (k : Nat) (s : State) : (logEntry c k s).initialized = s.initialized := rfl
@[simp] theorem logEntry_fault (c : ResultCode) (k : Nat) (s : State) : (logEntry c k s).fault = s.fault := rfl
@[simp] theorem logEntry_rx (c : ResultCode) (k : Nat) (s : State) : (logEntry c k s).rx = s.rx := rfl
@[simp] theorem logEntry_out (c : ResultCode) (k : Nat) (s : State) : (logEntry c k s).out = s.out := rfl
@[simp] theorem logEntry_inp (c : ResultCode) (k : Nat) (s : State) : (logEntry c k s).inp = s.inp := rfl
@[simp] theorem logEntry_str (c : ResultCode) (k : Nat) (s : State) : (logEntry c k s).str = s.str := rfl
@[simp] theorem logEntry_cmdPort (c : ResultCode) (k : Nat) (s : State) : (logEntry c k s).cmdPort = s.cmdPort := rfl
@[simp] theorem logEntry_chan (c : ResultCode) (k : Nat) (s : State) : (logEntry c k s).chan = s.chan := rfl
@[simp] theorem logEntry_log (c : ResultCode) (k : Nat) (s : State) : (logEntry c k s).log = s.log ++ [⟨c, k⟩] := rfl
@[simp] theorem logEntry_results (c : ResultCode) (k : Nat) (s : State) : (logEntry c k s).results = s.results := rfl
@[simp] theorem logEntry_physSet (c : ResultCode) (k : Nat) (s : State) : (logEntry c k s).physSet = s.physSet := rfl
@[simp] theorem logEntry_adapterPending (c : ResultCode) (k : Nat) (s : State) : (logEntry c k s).adapterPending = s.adapterPending := rfl
@[simp] theorem logEntry_countMisaligned (c : ResultCode) (k : Nat) (s : State) : (logEntry c k s).countMisaligned = s.countMisaligned := rfl
@[simp] theorem logEntry_chanMisaligned (c : ResultCode) (k : Nat) (s : State) : (logEntry c k s).chanMisaligned = s.chanMisaligned := rfl
@[simp] theorem logEntry_adapterIn (c : ResultCode) (k : Nat) (s : State) : (logEntry c k s).adapterIn = s.adapterIn := rfl
@[simp] theorem logEntry_drawn (c : ResultCode) (k : Nat) (s : State) : (logEntry c k s).drawn = s.drawn := rfl
@[simp] theorem logEntry_params (c : ResultCode) (k : Nat) (s : State) : (logEntry c k s).params = s.params := rfl

@[simp] theorem endCommand_scanFormat (c : ResultCode) (v : Bool) (s : State) : (endCommand c v s).scanFormat = s.scanFormat := rfl
@[simp] theorem endCommand_wantResult (c : ResultCode) (v : Bool) (s : State) : (endCommand c v s).wantResult = s.wantResult := rfl
@[simp] theorem endCommand_txBitCount (c : ResultCode) (v : Bool) (s : State) : (endCommand c v s).txBitCount = s.txBitCount := rfl
@[simp] theorem endCommand_tapState (c : ResultCode) (v : Bool) (s : State) : (endCommand c v s).tapState = s.tapState := rfl
@[simp] theorem endCommand_initialized (c : ResultCode) (v : Bool) (s : State) : (endCommand c v s).initialized = s.initialized := rfl
@[simp] theorem endCommand_fault (c : ResultCode) (v : Bool) (s : State) : (endCommand c v s).fault = s.fault := rfl
@[simp] theorem endCommand_rx (c : ResultCode) (v : Bool) (s : State) : (endCommand c v s).rx = s.rx := rfl
@[simp] theorem endCommand_out (c : ResultCode) (v : Bool) (s : State) : (endCommand c v s).out = s.out := rfl
@[simp] theorem endCommand_inp (c : ResultCode) (v : Bool) (s : State) : (endCommand c v s).inp = s.inp := rfl
@[simp] theorem endCommand_str (c : ResultCode) (v : Bool) (s : State) : (endCommand c v s).str = s.str := rfl
@[simp] theorem endCommand_cmdPort (c : ResultCode) (v : Bool) (s : State) : (endCommand c v s).cmdPort = s.cmdPort := rfl
@[simp] theorem endCommand_chan (c : ResultCode) (v : Bool) (s : State) : (endCommand c v s).chan = s.chan := rfl
@[simp] theorem endCommand_log (c : ResultCode) (v : Bool) (s : State) : (endCommand c v s).log = s.log := rfl
@[simp] theorem endCommand_results (c : ResultCode) (v : Bool) (s : State) : (endCommand c v s).results = s.results ++ [⟨c, v⟩] := rfl
@[simp] theorem endCommand_physSet (c : ResultCode) (v : Bool) (s : State) : (endCommand c v s).physSet = s.physSet := rfl
@[simp] theorem endCommand_adapterPending (c : ResultCode) (v : Bool) (s : State) : (endCommand c v s).adapterPending = s.adapterPending := rfl
@[simp] theorem endCommand_countMisaligned (c : ResultCode) (v : Bool) (s : State) : (endCommand c v s).countMisaligned = s.countMisaligned := rfl
@[simp] theorem endCommand_chanMisaligned (c : ResultCode) (v : Bool) (s : State) : (endCommand c v s).chanMisaligned = s.chanMisaligned := rfl
@[simp] theorem endCommand_adapterIn (c : ResultCode) (v : Bool) (s : State) : (endCommand c v s).adapterIn = s.adapterIn := rfl
@[simp] theorem endCommand_drawn (c : ResultCode) (v : Bool) (s : State) : (endCommand c v s).drawn = s.drawn := rfl
@[simp] theorem endCommand_params (c : ResultCode) (v : Bool) (s : State) : (endCommand c v s).params = s.params := rfl

@[simp] theorem writeRx_scanFormat (bs : List Byte) (s : State) : (writeRx bs s).scanFormat = s.scanFormat := rfl
@[simp] theorem writeRx_wantResult (bs : List Byte) (s : State) : (writeRx bs s).wantResult = s.wantResult := rfl
@[simp] theorem writeRx_txBitCount (bs : List Byte) (s : State) : (writeRx bs s).txBitCount = s.txBitCount := rfl
@[simp] theorem writeRx_tapState (bs : List Byte) (s : State) : (writeRx bs s).tapState = s.tapState := rfl
@[simp] theorem writeRx_initialized (bs : List Byte) (s : State) : (writeRx bs s).initialized = s.initialized := rfl
@[simp] theorem writeRx_fault (bs : List Byte) (s : State) : (writeRx bs s).fault = s.fault := rfl
@[simp] theorem writeRx_rx (bs : List Byte) (s : State) : (writeRx bs s).rx = s.rx.writeList 0 bs := rfl
@[simp] theorem writeRx_out (bs : List Byte) (s : State) : (writeRx bs s).out = s.out := rfl
@[simp] theorem writeRx_inp (bs : List Byte) (s : State) : (writeRx bs s).inp = s.inp := rfl
@[simp] theorem writeRx_str (bs : List Byte) (s : State) : (writeRx bs s).str = s.str := rfl
@[simp] theorem writeRx_cmdPort (bs : List Byte) (s : State) : (writeRx bs s).cmdPort = s.cmdPort := rfl
@[simp] theorem writeRx_chan (bs : List Byte) (s : State) : (writeRx bs s).chan = s.chan := rfl
@[simp] theorem writeRx_log (bs : List Byte) (s : State) : (writeRx bs s).log = s.log := rfl
@[simp] theorem writeRx_results (bs : List Byte) (s : State) : (writeRx bs s).results = s.results := rfl
@[simp] theorem writeRx_physSet (bs : List Byte) (s : State) : (writeRx bs s).physSet = s.physSet := rfl
@[simp] theorem writeRx_adapterPending (bs : List Byte) (s : State) : (writeRx bs s).adapterPending = s.adapterPending := rfl
@[simp] theorem writeRx_countMisaligned (bs : List Byte) (s : State) : (writeRx bs s).countMisaligned = s.countMisaligned := rfl
@[simp] theorem writeRx_chanMisaligned (bs : List Byte) (s : State) : (writeRx bs s).chanMisaligned = s.chanMisaligned := rfl
@[simp] theorem writeRx_adapterIn (bs : List Byte) (s : State) : (writeRx bs s).adapterIn = s.adapterIn := rfl
@[simp] theorem writeRx_drawn (bs : List Byte) (s : State) : (writeRx bs s).drawn = s.drawn := rfl
@[simp] theorem writeRx_params (bs : List Byte) (s : State) : (writeRx bs s).params = s.params := rfl

@[simp] theorem setInBit_scanFormat (i : Nat) (b : Bool) (s : State) : (setInBit i b s).scanFormat = s.scanFormat := rfl
@[simp] theorem setInBit_wantResult (i : Nat) (b : Bool) (s : State) : (setInBit i b s).wantResult = s.wantResult := rfl
@[simp] theorem setInBit_txBitCount (i : Nat) (b : Bool) (s : State) : (setInBit i b s).txBitCount = s.txBitCount := rfl
@[simp] theorem setInBit_tapState (i : Nat) (b : Bool) (s : State) : (setInBit i b s).tapState = s.tapState := rfl
@[simp] theorem setInBit_initialized (i : Nat) (b : Bool) (s : State) : (setInBit i b s).initialized = s.initialized := rfl
@[simp] theorem setInBit_fault (i : Nat) (b : Bool) (s : State) : (setInBit i b s).fault = s.fault := rfl
@[simp] theorem setInBit_rx (i : Nat) (b : Bool) (s : State) : (setInBit i b s).rx = s.rx := rfl
@[simp] theorem setInBit_out (i : Nat) (b : Bool) (s : State) : (setInBit i b s).out = s.out := rfl
@[simp] theorem setInBit_inp (i : Nat) (b : Bool) (s : State) : (setInBit i b s).inp = s.inp.setBit i b := rfl
@[simp] theorem setInBit_str (i : Nat) (b : Bool) (s : State) : (setInBit i b s).str = s.str := rfl
@[simp] theorem setInBit_cmdPort (i : Nat) (b : Bool) (s : State) : (setInBit i b s).cmdPort = s.cmdPort := rfl
@[simp] theorem setInBit_chan (i : Nat) (b : Bool) (s : State) : (setInBit i b s).chan = s.chan := rfl
@[simp] theorem setInBit_log (i : Nat) (b : Bool) (s : State) : (setInBit i b s).log = s.log := rfl
@[simp] theorem setInBit_results (i : Nat) (b : Bool) (s : State) : (setInBit i b s).results = s.results := rfl
@[simp] theorem setInBit_physSet (i : Nat) (b : Bool) (s : State) : (setInBit i b s).physSet = s.physSet := rfl
@[simp] theorem setInBit_adapterPending (i : Nat) (b : Bool) (s : State) : (setInBit i b s).adapterPending = s.adapterPending := rfl
@[simp] theorem setInBit_countMisaligned (i : Nat) (b : Bool) (s : State) : (setInBit i b s).countMisaligned = s.countMisaligned := rfl
@[simp] theorem setInBit_chanMisaligned (i : Nat) (b : Bool) (s : State) : (setInBit i b s).chanMisaligned = s.chanMisaligned := rfl
@[simp] theorem setInBit_adapterIn (i : Nat) (b : Bool) (s : State) : (setInBit i b s).adapterIn = s.adapterIn := rfl
@[simp] theorem setInBit_drawn (i : Nat) (b : Bool) (s : State) : (setInBit i b s).drawn = s.drawn := rfl
@[simp] theorem setInBit_params (i : Nat) (b : Bool) (s : State) : (setInBit i b s).params = s.params := rfl

@[simp] theorem accept_scanFormat (s : State) (r : Request) (rest : List Request) : (s.accept r rest).scanFormat = s.scanFormat := rfl
@[simp] theorem accept_wantResult (s : State) (r : Request) (rest : List Request) : (s.accept r rest).wantResult = s.wantResult := rfl
@[simp] theorem accept_txBitCount (s : State) (r : Request) (rest : List Request) : (s.accept r rest).txBitCount = s.txBitCount := rfl
@[simp] theorem accept_tapState (s : State) (r : Request) (rest : List Request) : (s.accept r rest).tapState = s.tapState := rfl
@[simp] theorem accept_initialized (s : State) (r : Request) (rest : List Request) : (s.accept r rest).initialized = s.initialized := rfl
@[simp] theorem accept_fault (s : State) (r : Request) (rest : List Request) : (s.accept r rest).fault = s.fault := rfl
@[simp] theorem accept_rx (s : State) (r : Request) (rest : List Request) : (s.accept r rest).rx = s.rx := rfl
@[simp] theorem accept_out (s : State) (r : Request) (rest : List Request) : (s.accept r rest).out = r.out := rfl
@[simp] theorem accept_inp (s : State) (r : Request) (rest : List Request) : (s.accept r rest).inp = r.inp := rfl
@[simp] theorem accept_str (s : State) (r : Request) (rest : List Request) : (s.accept r rest).str = r.str := rfl
@[simp] theorem accept_cmdPort (s : State) (r : Request) (rest : List Request) : (s.accept r rest).cmdPort = rest := rfl
@[simp] theorem accept_chan (s : State) (r : Request) (rest : List Request) : (s.accept r rest).chan = s.chan := rfl
@[simp] theorem accept_log (s : State) (r : Request) (rest : List Request) : (s.accept r rest).log = s.log := rfl
@[simp] theorem accept_results (s : State) (r : Request) (rest : List Request) : (s.accept r rest).results = s.results := rfl
@[simp] theorem accept_physSet (s : State) (r : Request) (rest : List Request) : (s.accept r rest).physSet = s.physSet := rfl
@[simp] theorem accept_adapterPending (s : State) (r : Request) (rest : List Request) : (s.accept r rest).adapterPending = s.adapterPending := rfl
@[simp] theorem accept_countMisaligned (s : State) (r : Request) (rest : List Request) : (s.accept r rest).countMisaligned = s.countMisaligned := rfl
@[simp] theorem accept_chanMisaligned (s : State) (r : Request) (rest : List Request) : (s.accept r rest).chanMisaligned = s.chanMisaligned := rfl
@[simp] theorem accept_adapterIn (s : State) (r : Request) (rest : List Request) : (s.accept r rest).adapterIn = s.adapterIn := rfl
@[simp] theorem accept_drawn (s : State) (r : Request) (rest : List Request) : (s.accept r rest).drawn = s.drawn := rfl
@[simp] theorem accept_params (s : State) (r : Request) (rest : List Request) : (s.accept r rest).params = s.params := rfl

@[simp] theorem afterEvents_scanFormat (e : List ChanEvent) (s : State) : (afterEvents e s).scanFormat = s.scanFormat := rfl
@[simp] theorem afterEvents_wantResult (e : List ChanEvent) (s : State) : (afterEvents e s).wantResult = s.wantResult := rfl
@[simp] theorem afterEvents_txBitCount (e : List ChanEvent) (s : State) : (afterEvents e s).txBitCount = s.txBitCount + BitVec.ofNat 32 (cycleCount e) := rfl
@[simp] theorem afterEvents_tapState (e : List ChanEvent) (s : State) : (afterEvents e s).tapState = s.tapState := rfl
@[simp] theorem afterEvents_initialized (e : List ChanEvent) (s : State) : (afterEvents e s).initialized = s.initialized := rfl
@[simp] theorem afterEvents_fault (e : List ChanEvent) (s : State) : (afterEvents e s).fault = s.fault := rfl
@[simp] theorem afterEvents_rx (e : List ChanEvent) (s : State) : (afterEvents e s).rx = s.rx := rfl
@[simp] theorem afterEvents_out (e : List ChanEvent) (s : State) : (afterEvents e s).out = s.out := rfl
@[simp] theorem afterEvents_inp (e : List ChanEvent) (s : State) : (afterEvents e s).inp = s.inp := rfl
@[simp] theorem afterEvents_str (e : List ChanEvent) (s : State) : (afterEvents e s).str = s.str := rfl
@[simp] theorem afterEvents_cmdPort (e : List ChanEvent) (s : State) : (afterEvents e s).cmdPort = s.cmdPort := rfl
@[simp] theorem afterEvents_chan (e : List ChanEvent) (s : State) : (afterEvents e s).chan = s.chan ++ e := rfl
@[simp] theorem afterEvents_log (e : List ChanEvent) (s : State) : (afterEvents e s).log = s.log := rfl
@[simp] theorem afterEvents_results (e : List ChanEvent) (s : State) : (afterEvents e s).results = s.results := rfl
@[simp] theorem afterEvents_physSet (e : List ChanEvent) (s : State) : (afterEvents e s).physSet = e.foldl physEvent s.physSet := rfl
@[simp] theorem afterEvents_adapterPending (e : List ChanEvent) (s : State) : (afterEvents e s).adapterPending = s.adapterPending := rfl
@[simp] theorem afterEvents_countMisaligned (e : List ChanEvent) (s : State) : (afterEvents e s).countMisaligned = s.countMisaligned := rfl
@[simp] theorem afterEvents_chanMisaligned (e : List ChanEvent) (s : State) : (afterEvents e s).chanMisaligned =
    (s.chanMisaligned || (s.adapterPending != 0 && readCount e != 0)) := rfl
@[simp] theorem afterEvents_adapterIn (e : List ChanEvent) (s : State) : (afterEvents e s).adapterIn = s.adapterIn.drop (readCount e) := rfl
@[simp] theorem afterEvents_drawn (e : List ChanEvent) (s : State) : (afterEvents e s).drawn = s.drawn + (readCount e - s.adapterIn.length) := rfl
@[simp] theorem afterEvents_params (e : List ChanEvent) (s : State) : (afterEvents e s).params = s.params := rfl

@[simp] theorem setScanFormat_scanFormat (f : ScanFormat) (s : State) : (setScanFormat f s).scanFormat = f := rfl
@[simp] theorem setScanFormat_wantResult (f : ScanFormat) (s : State) : (setScanFormat f s).wantResult = s.wantResult := rfl
@[simp] theorem setScanFormat_txBitCount (f : ScanFormat) (s : State) : (setScanFormat f s).txBitCount = s.txBitCount := rfl
@[simp] theorem setScanFormat_tapState (f : ScanFormat) (s : State) : (setScanFormat f s).tapState = s.tapState := rfl
@[simp] theorem setScanFormat_initialized (f : ScanFormat) (s : State) : (setScanFormat f s).initialized = s.initialized := rfl
@[simp] theorem setScanFormat_fault (f : ScanFormat) (s : State) : (setScanFormat f s).fault = s.fault := rfl
@[simp] theorem setScanFormat_rx (f : ScanFormat) (s : State) : (setScanFormat f s).rx = s.rx := rfl
@[simp] theorem setScanFormat_out (f : ScanFormat) (s : State) : (setScanFormat f s).out = s.out := rfl
@[simp] theorem setScanFormat_inp (f : ScanFormat) (s : State) : (setScanFormat f s).inp = s.inp := rfl
@[simp] theorem setScanFormat_str (f : ScanFormat) (s : State) : (setScanFormat f s).str = s.str := rfl
@[simp] theorem setScanFormat_cmdPort (f : ScanFormat) (s : State) : (setScanFormat f s).cmdPort = s.cmdPort := rfl
@[simp] theorem setScanFormat_chan (f : ScanFormat) (s : State) : (setScanFormat f s).chan = s.chan := rfl
@[simp] theorem setScanFormat_log (f : ScanFormat) (s : State) : (setScanFormat f s).log = s.log := rfl
@[simp] theorem setScanFormat_results (f : ScanFormat) (s : State) : (setScanFormat f s).results = s.results := rfl
@[simp] theorem setScanFormat_physSet (f : ScanFormat) (s : State) : (setScanFormat f s).physSet = s.physSet := rfl
@[simp] theorem setScanFormat_adapterPending (f : ScanFormat) (s : State) : (setScanFormat f s).adapterPending = s.adapterPending := rfl
@[simp] theorem setScanFormat_countMisaligned (f : ScanFormat) (s : State) : (setScanFormat f s).countMisaligned = s.countMisaligned := rfl
@[simp] theorem setScanFormat_chanMisaligned (f : ScanFormat) (s : State) : (setScanFormat f s).chanMisaligned = s.chanMisaligned := rfl
@[simp] theorem setScanFormat_adapterIn (f : ScanFormat) (s : State) : (setScanFormat f s).adapterIn = s.adapterIn := rfl
@[simp] theorem setScanFormat_drawn (f : ScanFormat) (s : State) : (setScanFormat f s).drawn = s.drawn := rfl
@[simp] theorem setScanFormat_params (f : ScanFormat) (s : State) : (setScanFormat f s).params = s.params := rfl

@[simp] theorem setWantResult_scanFormat (b : Bool) (s : State) : (setWantResult b s).scanFormat = s.scanFormat := rfl
@[simp] theorem setWantResult_wantResult (b : Bool) (s : State) : (setWantResult b s).wantResult = b := rfl
@[simp] theorem setWantResult_txBitCount (b : Bool) (s : State) : (setWantResult b s).txBitCount = s.txBitCount := rfl
@[simp] theorem setWantResult_tapState (b : Bool) (s : State) : (setWantResult b s).tapState = s.tapState := rfl
@[simp] theorem setWantResult_initialized (b : Bool) (s : State) : (setWantResult b s).initialized = s.initialized := rfl
@[simp] theorem setWantResult_fault (b : Bool) (s : State) : (setWantResult b s).fault = s.fault := rfl
@[simp] theorem setWantResult_rx (b : Bool) (s : State) : (setWantResult b s).rx = s.rx := rfl
@[simp] theorem setWantResult_out (b : Bool) (s : State) : (setWantResult b s).out = s.out := rfl
@[simp] theorem setWantResult_inp (b : Bool) (s : State) : (setWantResult b s).inp = s.inp := rfl
@[simp] theorem setWantResult_str (b : Bool) (s : State) : (setWantResult b s).str = s.str := rfl
@[simp] theorem setWantResult_cmdPort (b : Bool) (s : State) : (setWantResult b s).cmdPort = s.cmdPort := rfl
@[simp] theorem setWantResult_chan (b : Bool) (s : State) : (setWantResult b s).chan = s.chan := rfl
@[simp] theorem setWantResult_log (b : Bool) (s : State) : (setWantResult b s).log = s.log := rfl
@[simp] theorem setWantResult_results (b : Bool) (s : State) : (setWantResult b s).results = s.results := rfl
@[simp] theorem setWantResult_physSet (b : Bool) (s : State) : (setWantResult b s).physSet = s.physSet := rfl
@[simp] theorem setWantResult_adapterPending (b : Bool) (s : State) : (setWantResult b s).adapterPending = s.adapterPending := rfl
@[simp] theorem setWantResult_countMisaligned (b : Bool) (s : State) : (setWantResult b s).countMisaligned = s.countMisaligned := rfl
@[simp] theorem setWantResult_chanMisaligned (b : Bool) (s : State) : (setWantResult b s).chanMisaligned = s.chanMisaligned := rfl
@[simp] theorem setWantResult_adapterIn (b : Bool) (s : State) : (setWantResult b s).adapterIn = s.adapterIn := rfl
@[simp] theorem setWantResult_drawn (b : Bool) (s : State) : (setWantResult b s).drawn = s.drawn := rfl
@[simp] theorem setWantResult_params (b : Bool) (s : State) : (setWantResult b s).params = s.params := rfl

@[simp] theorem setBitCount_scanFormat (n : BitVec 32) (s : State) : (setBitCount n s).scanFormat = s.scanFormat := rfl
@[simp] theorem setBitCount_wantResult (n : BitVec 32) (s : State) : (setBitCount n s).wantResult = s.wantResult := rfl
@[simp] theorem setBitCount_txBitCount (n : BitVec 32) (s : State) : (setBitCount n s).txBitCount = n := rfl
@[simp] theorem setBitCount_tapState (n : BitVec 32) (s : State) : (setBitCount n s).tapState = s.tapState := rfl
@[simp] theorem setBitCount_initialized (n : BitVec 32) (s : State) : (setBitCount n s).initialized = s.initialized := rfl
@[simp] theorem setBitCount_fault (n : BitVec 32) (s : State) : (setBitCount n s).fault = s.fault := rfl
@[simp] theorem setBitCount_rx (n : BitVec 32) (s : State) : (setBitCount n s).rx = s.rx := rfl
@[simp] theorem setBitCount_out (n : BitVec 32) (s : State) : (setBitCount n s).out = s.out := rfl
@[simp] theorem setBitCount_inp (n : BitVec 32) (s : State) : (setBitCount n s).inp = s.inp := rfl
@[simp] theorem setBitCount_str (n : BitVec 32) (s : State) : (setBitCount n s).str = s.str := rfl
@[simp] theorem setBitCount_cmdPort (n : BitVec 32) (s : State) : (setBitCount n s).cmdPort = s.cmdPort := rfl
@[simp] theorem setBitCount_chan (n : BitVec 32) (s : State) : (setBitCount n s).chan = s.chan := rfl
@[simp] theorem setBitCount_log (n : BitVec 32) (s : State) : (setBitCount n s).log = s.log := rfl
@[simp] theorem setBitCount_results (n : BitVec 32) (s : State) : (setBitCount n s).results = s.results := rfl
@[simp] theorem setBitCount_physSet (n : BitVec 32) (s : State) : (setBitCount n s).physSet = s.physSet := rfl
@[simp] theorem setBitCount_adapterPending (n : BitVec 32) (s : State) : (setBitCount n s).adapterPending = s.adapterPending := rfl
@[simp] theorem setBitCount_countMisaligned (n : BitVec 32) (s : State) : (setBitCount n s).countMisaligned = s.countMisaligned := rfl
@[simp] theorem setBitCount_chanMisaligned (n : BitVec 32) (s : State) : (setBitCount n s).chanMisaligned = s.chanMisaligned := rfl
@[simp] theorem setBitCount_adapterIn (n : BitVec 32) (s : State) : (setBitCount n s).adapterIn = s.adapterIn := rfl
@[simp] theorem setBitCount_drawn (n : BitVec 32) (s : State) : (setBitCount n s).drawn = s.drawn := rfl
@[simp] theorem setBitCount_params (n : BitVec 32) (s : State) : (setBitCount n s).params = s.params := rfl

@[simp] theorem setTapState_scanFormat (t : Tap) (s : State) : (setTapState t s).scanFormat = s.scanFormat := rfl
@[simp] theorem setTapState_wantResult (t : Tap) (s : State) : (setTapState t s).wantResult = s.wantResult := rfl
@[simp] theorem setTapState_txBitCount (t : Tap) (s : State) : (setTapState t s).txBitCount = s.txBitCount := rfl
@[simp] theorem setTapState_tapState (t : Tap) (s : State) : (setTapState t s).tapState = t := rfl
@[simp] theorem setTapState_initialized (t : Tap) (s : State) : (setTapState t s).initialized = s.initialized := rfl
@[simp] theorem setTapState_fault (t : Tap) (s : State) : (setTapState t s).fault = s.fault := rfl
@[simp] theorem setTapState_rx (t : Tap) (s : State) : (setTapState t s).rx = s.rx := rfl
@[simp] theorem setTapState_out (t : Tap) (s : State) : (setTapState t s).out = s.out := rfl
@[simp] theorem setTapState_inp (t : Tap) (s : State) : (setTapState t s).inp = s.inp := rfl
@[simp] theorem setTapState_str (t : Tap) (s : State) : (setTapState t s).str = s.str := rfl
@[simp] theorem setTapState_cmdPort (t : Tap) (s : State) : (setTapState t s).cmdPort = s.cmdPort := rfl
@[simp] theorem setTapState_chan (t : Tap) (s : State) : (setTapState t s).chan = s.chan := rfl
@[simp] theorem setTapState_log (t : Tap) (s : State) : (setTapState t s).log = s.log := rfl
@[simp] theorem setTapState_results (t : Tap) (s : State) : (setTapState t s).results = s.results := rfl
@[simp] theorem setTapState_physSet (t : Tap) (s : State) : (setTapState t s).physSet = s.physSet := rfl
@[simp] theorem setTapState_adapterPending (t : Tap) (s : State) : (setTapState t s).adapterPending = s.adapterPending := rfl
@[simp] theorem setTapState_countMisaligned (t : Tap) (s : State) : (setTapState t s).countMisaligned = s.countMisaligned := rfl
@[simp] theorem setTapState_chanMisaligned (t : Tap) (s : State) : (setTapState t s).chanMisaligned = s.chanMisaligned := rfl
@[simp] theorem setTapState_adapterIn (t : Tap) (s : State) : (setTapState t s).adapterIn = s.adapterIn := rfl
@[simp] theorem setTapState_drawn (t : Tap) (s : State) : (setTapState t s).drawn = s.drawn := rfl
@[simp] theorem setTapState_params (t : Tap) (s : State) : (setTapState t s).params = s.params := rfl

@[simp] theorem setInitialized_scanFormat (s : State) : (setInitialized s).scanFormat = s.scanFormat := rfl
@[simp] theorem setInitialized_wantResult (s : State) : (setInitialized s).wantResult = s.wantResult := rfl
@[simp] theorem setInitialized_txBitCount (s : State) : (setInitialized s).txBitCount = s.txBitCount := rfl
@[simp] theorem setInitialized_tapState (s : State) : (setInitialized s).tapState = s.tapState := rfl
@[simp] theorem setInitialized_initialized (s : State) : (setInitialized s).initialized = true := rfl
@[simp] theorem setInitialized_fault (s : State) : (setInitialized s).fault = s.fault := rfl
@[simp] theorem setInitialized_rx (s : State) : (setInitialized s).rx = s.rx := rfl
@[simp] theorem setInitialized_out (s : State) : (setInitialized s).out = s.out := rfl
@[simp] theorem setInitialized_inp (s : State) : (setInitialized s).inp = s.inp := rfl
@[simp] theorem setInitialized_str (s : State) : (setInitialized s).str = s.str := rfl
@[simp] theorem setInitialized_cmdPort (s : State) : (setInitialized s).cmdPort = s.cmdPort := rfl
@[simp] theorem setInitialized_chan (s : State) : (setInitialized s).chan = s.chan := rfl
@[simp] theorem setInitialized_log (s : State) : (setInitialized s).log = s.log := rfl
@[simp] theorem setInitialized_results (s : State) : (setInitialized s).results = s.results := rfl
@[simp] theorem setInitialized_physSet (s : State) : (setInitialized s).physSet = s.physSet := rfl
@[simp] theorem setInitialized_adapterPending (s : State) : (setInitialized s).adapterPending = s.adapterPending := rfl
@[simp] theorem setInitialized_countMisaligned (s : State) : (setInitialized s).countMisaligned = s.countMisaligned := rfl
@[simp] theorem setInitialized_chanMisaligned (s : State) : (setInitialized s).chanMisaligned = s.chanMisaligned := rfl
@[simp] theorem setInitialized_adapterIn (s : State) : (setInitialized s).adapterIn = s.adapterIn := rfl
@[simp] theorem setInitialized_drawn (s : State) : (setInitialized s).drawn = s.drawn := rfl
@[simp] theorem setInitialized_params (s : State) : (setInitialized s).params = s.params := rfl

@[simp] theorem clearPending_scanFormat (s : State) : (clearPending s).scanFormat = s.scanFormat := rfl
@[simp] theorem clearPending_wantResult (s : State) : (clearPending s).wantResult = s.wantResult := rfl
@[simp] theorem clearPending_txBitCount (s : State) : (clearPending s).txBitCount = s.txBitCount := rfl
@[simp] theorem clearPending_tapState (s : State) : (clearPending s).tapState = s.tapState := rfl
@[simp] theorem clearPending_initialized (s : State) : (clearPending s).initialized = s.initialized := rfl
@[simp] theorem clearPending_fault (s : State) : (clearPending s).fault = s.fault := rfl
@[simp] theorem clearPending_rx (s : State) : (clearPending s).rx = s.rx := rfl
@[simp] theorem clearPending_out (s : State) : (clearPending s).out = s.out := rfl
@[simp] theorem clearPending_inp (s : State) : (clearPending s).inp = s.inp := rfl
@[simp] theorem clearPending_str (s : State) : (clearPending s).str = s.str := rfl
@[simp] theorem clearPending_cmdPort (s : State) : (clearPending s).cmdPort = s.cmdPort := rfl
@[simp] theorem clearPending_chan (s : State) : (clearPending s).chan = s.chan := rfl
@[simp] theorem clearPending_log (s : State) : (clearPending s).log = s.log := rfl
@[simp] theorem clearPending_results (s : State) : (clearPending s).results = s.results := rfl
@[simp] theorem clearPending_physSet (s : State) : (clearPending s).physSet = s.physSet := rfl
@[simp] theorem clearPending_adapterPending (s : State) : (clearPending s).adapterPending = 0 := rfl
@[simp] theorem clearPending_countMisaligned (s : State) : (clearPending s).countMisaligned = s.countMisaligned := rfl
@[simp] theorem clearPending_chanMisaligned (s : State) : (clearPending s).chanMisaligned = s.chanMisaligned := rfl
@[simp] theorem clearPending_adapterIn (s : State) : (clearPending s).adapterIn = s.adapterIn := rfl
@[simp] theorem clearPending_drawn (s : State) : (clearPending s).drawn = s.drawn := rfl
@[simp] theorem clearPending_params (s : State) : (clearPending s).params = s.params := rfl

@[simp] theorem setFault_scanFormat (c : ResultCode) (s : State) : (setFault c s).scanFormat = s.scanFormat := rfl
@[simp] theorem setFault_wantResult (c : ResultCode) (s : State) : (setFault c s).wantResult = s.wantResult := rfl
@[simp] theorem setFault_txBitCount (c : ResultCode) (s : State) : (setFault c s).txBitCount = s.txBitCount := rfl
@[simp] theorem setFault_tapState (c : ResultCode) (s : State) : (setFault c s).tapState = s.tapState := rfl
@[simp] theorem setFault_initialized (c : ResultCode) (s : State) : (setFault c s).initialized = s.initialized := rfl
@[simp] theorem setFault_fault (c : ResultCode) (s : State) : (setFault c s).fault = c.toByte := rfl
@[simp] theorem setFault_rx (c : ResultCode) (s : State) : (setFault c s).rx = s.rx := rfl
@[simp] theorem setFault_out (c : ResultCode) (s : State) : (setFault c s).out = s.out := rfl
@[simp] theorem setFault_inp (c : ResultCode) (s : State) : (setFault c s).inp = s.inp := rfl
@[simp] theorem setFault_str (c : ResultCode) (s : State) : (setFault c s).str = s.str := rfl
@[simp] theorem setFault_cmdPort (c : ResultCode) (s : State) : (setFault c s).cmdPort = s.cmdPort := rfl
@[simp] theorem setFault_chan (c : ResultCode) (s : State) : (setFault c s).chan = s.chan := rfl
@[simp] theorem setFault_log (c : ResultCode) (s : State) : (setFault c s).log = s.log := rfl
@[simp] theorem setFault_results (c : ResultCode) (s : State) : (setFault c s).results = s.results := rfl
@[simp] theorem setFault_physSet (c : ResultCode) (s : State) : (setFault c s).physSet = s.physSet := rfl
@[simp] theorem setFault_adapterPending (c : ResultCode) (s : State) : (setFault c s).adapterPending = s.adapterPending := rfl
@[simp] theorem setFault_countMisaligned (c : ResultCode) (s : State) : (setFault c s).countMisaligned = s.countMisaligned := rfl
@[simp] theorem setFault_chanMisaligned (c : ResultCode) (s : State) : (setFault c s).chanMisaligned = s.chanMisaligned := rfl
@[simp] theorem setFault_adapterIn (c : ResultCode) (s : State) : (setFault c s).adapterIn = s.adapterIn := rfl
@[simp] theorem setFault_drawn (c : ResultCode) (s : State) : (setFault c s).drawn = s.drawn := rfl
@[simp] theorem setFault_params (c : ResultCode) (s : State) : (setFault c s).params = s.params := rfl

@[simp] theorem markMisaligned_scanFormat (b : Bool) (s : State) : (markMisaligned b s).scanFormat = s.scanFormat := rfl
@[simp] theorem markMisaligned_wantResult (b : Bool) (s : State) : (markMisaligned b s).wantResult = s.wantResult := rfl
@[simp] theorem markMisaligned_txBitCount (b : Bool) (s : State) : (markMisaligned b s).txBitCount = s.txBitCount := rfl
@[simp] theorem markMisaligned_tapState (b : Bool) (s : State) : (markMisaligned b s).tapState = s.tapState := rfl
@[simp] theorem markMisaligned_initialized (b : Bool) (s : State) : (markMisaligned b s).initialized = s.initialized := rfl
@[simp] theorem markMisaligned_fault (b : Bool) (s : State) : (markMisaligned b s).fault = s.fault := rfl
@[simp] theorem markMisaligned_rx (b : Bool) (s : State) : (markMisaligned b s).rx = s.rx := rfl
@[simp] theorem markMisaligned_out (b : Bool) (s : State) : (markMisaligned b s).out = s.out := rfl
@[simp] theorem markMisaligned_inp (b : Bool) (s : State) : (markMisaligned b s).inp = s.inp := rfl
@[simp] theorem markMisaligned_str (b : Bool) (s : State) : (markMisaligned b s).str = s.str := rfl
@[simp] theorem markMisaligned_cmdPort (b : Bool) (s : State) : (markMisaligned b s).cmdPort = s.cmdPort := rfl
@[simp] theorem markMisaligned_chan (b : Bool) (s : State) : (markMisaligned b s).chan = s.chan := rfl
@[simp] theorem markMisaligned_log (b : Bool) (s : State) : (markMisaligned b s).log = s.log := rfl
@[simp] theorem markMisaligned_results (b : Bool) (s : State) : (markMisaligned b s).results = s.results := rfl
@[simp] theorem markMisaligned_physSet (b : Bool) (s : State) : (markMisaligned b s).physSet = s.physSet := rfl
@[simp] theorem markMisaligned_adapterPending (b : Bool) (s : State) : (markMisaligned b s).adapterPending = s.adapterPending := rfl
@[simp] theorem markMisaligned_countMisaligned (b : Bool) (s : State) : (markMisaligned b s).countMisaligned = (s.countMisaligned || b) := rfl
@[simp] theorem markMisaligned_chanMisaligned (b : Bool) (s : State) : (markMisaligned b s).chanMisaligned = (s.chanMisaligned || b) := rfl
@[simp] theorem markMisaligned_adapterIn (b : Bool) (s : State) : (markMisaligned b s).adapterIn = s.adapterIn := rfl
@[simp] theorem markMisaligned_drawn (b : Bool) (s : State) : (markMisaligned b s).drawn = s.drawn := rfl
@[simp] theorem markMisaligned_params (b : Bool) (s : State) : (markMisaligned b s).params = s.params := rfl
@[simp] theorem countBit_scanFormat (s : State) : (countBit s).scanFormat = s.scanFormat := rfl
@[simp] theorem countBit_wantResult (s : State) : (countBit s).wantResult = s.wantResult := rfl
@[simp] theorem countBit_txBitCount (s : State) : (countBit s).txBitCount = s.txBitCount + 1 := rfl
@[simp] theorem countBit_tapState (s : State) : (countBit s).tapState = s.tapState := rfl
@[simp] theorem countBit_initialized (s : State) : (countBit s).initialized = s.initialized := rfl
@[simp] theorem countBit_fault (s : State) : (countBit s).fault = s.fault := rfl
@[simp] theorem countBit_rx (s : State) : (countBit s).rx = s.rx := rfl
@[simp] theorem countBit_out (s : State) : (countBit s).out = s.out := rfl
@[simp] theorem countBit_inp (s : State) : (countBit s).inp = s.inp := rfl
@[simp] theorem countBit_str (s : State) : (countBit s).str = s.str := rfl
@[simp] theorem countBit_cmdPort (s : State) : (countBit s).cmdPort = s.cmdPort := rfl
@[simp] theorem countBit_chan (s : State) : (countBit s).chan = s.chan := rfl
@[simp] theorem countBit_log (s : State) : (countBit s).log = s.log := rfl
@[simp] theorem countBit_results (s : State) : (countBit s).results = s.results := rfl
@[simp] theorem countBit_physSet (s : State) : (countBit s).physSet = s.physSet := rfl
@[simp] theorem countBit_adapterPending (s : State) : (countBit s).adapterPending = s.adapterPending := rfl
@[simp] theorem countBit_countMisaligned (s : State) : (countBit s).countMisaligned = s.countMisaligned := rfl
@[simp] theorem countBit_chanMisaligned (s : State) : (countBit s).chanMisaligned = s.chanMisaligned := rfl
@[simp] theorem countBit_adapterIn (s : State) : (countBit s).adapterIn = s.adapterIn := rfl
@[simp] theorem countBit_drawn (s : State) : (countBit s).drawn = s.drawn := rfl
@[simp] theorem countBit_params (s : State) : (countBit s).params = s.params := rfl

end Sys2Proof.Machine
end

