-- ==== Sys2Proof/Laws/Ops.lean ====
section
/-! SUPPORT. What the shared operations do, said once: the transition helpers, the runs of a command's
steps, and the steps of the bit-scan and mode commands as the channel events they make. -/

namespace Sys2Proof.Machine

@[simp] theorem cycleCount_append (e f : List ChanEvent) : cycleCount (e ++ f) = cycleCount e + cycleCount f := by
  simp [cycleCount]

@[simp] theorem readCount_append (e f : List ChanEvent) : readCount (e ++ f) = readCount e + readCount f := by
  simp [readCount]

@[simp] theorem cycleCount_nil : cycleCount [] = 0 := rfl
@[simp] theorem readCount_nil : readCount [] = 0 := rfl

theorem immediateEvents_cons (fmt : ScanFormat) (wr : Bool) (t : Bool) (syms : List Bool) :
    immediateEvents fmt wr (t :: syms) = immediateEvents fmt wr [t] ++ immediateEvents fmt wr syms := rfl

@[simp] theorem cycleCount_immediateEvents (fmt : ScanFormat) (wr : Bool) (syms : List Bool) :
    cycleCount (immediateEvents fmt wr syms) = syms.length := by
  induction syms with
  | nil => rfl
  | cons t syms ih =>
    have : cycleCount (immediateEvents fmt wr [t]) = 1 := rfl
    rw [immediateEvents_cons, cycleCount_append, ih, this, List.length_cons, Nat.add_comm]

@[simp] theorem readCount_immediateEvents (fmt : ScanFormat) (wr : Bool) (syms : List Bool) :
    readCount (immediateEvents fmt wr syms) = syms.length := by
  induction syms with
  | nil => rfl
  | cons t syms ih =>
    have : readCount (immediateEvents fmt wr [t]) = 1 := rfl
    rw [immediateEvents_cons, readCount_append, ih, this, List.length_cons, Nat.add_comm]

@[simp] theorem physEvent_immediateEvents (fmt : ScanFormat) (wr : Bool) (syms : List Bool) (phys : List Tap) :
    (immediateEvents fmt wr syms).foldl physEvent phys = physRun phys syms := by
  induction syms generalizing phys with
  | nil => rfl
  | cons t syms ih => exact ih (physStep phys t)

theorem immediateEvents_append (fmt : ScanFormat) (wr : Bool) (a b : List Bool) :
    immediateEvents fmt wr (a ++ b) = immediateEvents fmt wr a ++ immediateEvents fmt wr b := by
  simp [immediateEvents]

@[simp] theorem afterEvents_nil (s : State) : afterEvents [] s = s := by
  simp [afterEvents]

/-- Replaying two stretches of events one after the other. -/
theorem afterEvents_append (e f : List ChanEvent) (s : State) :
    afterEvents (e ++ f) s = afterEvents f (afterEvents e s) := by
  simp only [afterEvents, cycleCount_append, readCount_append, List.foldl_append, List.append_assoc,
    List.drop_drop, List.length_drop]
  congr 1
  · rw [BitVec.ofNat_add, BitVec.add_assoc]
  · have h : (readCount e + readCount f != 0) = (readCount e != 0 || readCount f != 0) := by
      rw [Bool.eq_iff_iff]
      simp only [Bool.or_eq_true, bne_iff_ne]
      omega
    rw [h, Bool.and_or_distrib_left, Bool.or_assoc]
  · omega

/-- `transitions_immediate` is its events. -/
theorem foldl_immediateSymbol (syms : List Bool) (s : State) :
    syms.foldl immediateSymbol s = afterEvents (immediateEvents s.scanFormat s.wantResult syms) s := by
  induction syms generalizing s with
  | nil => exact (afterEvents_nil s).symm
  | cons t syms ih =>
    have one : immediateSymbol s t = afterEvents (immediateEvents s.scanFormat s.wantResult [t]) s := by
      have hc : cycleCount (immediateEvents s.scanFormat s.wantResult [t]) = 1 := rfl
      simp only [immediateSymbol, countBit, setBitCount, afterRead, emitCycle, emit, afterEvents, hc,
        readCount_immediateEvents, Token.responses, List.length_singleton]
      simp [immediateEvents, physEvent]
    rw [List.foldl_cons, ih, one, immediateEvents_cons _ _ t syms, afterEvents_append]
    rfl

theorem transitionsImmediate_eq (str : TmsString) (s : State) :
    transitionsImmediate str s = afterEvents (immediateEvents s.scanFormat s.wantResult str.syms) s :=
  foldl_immediateSymbol _ s

/-- `transitions_deferred`: the cycles on the channel, counted, and their bytes pending. -/
theorem foldl_deferredSymbol (syms : List Bool) (s : State) :
    syms.foldl deferredSymbol s =
      { s with
        chan := s.chan ++ deferredEvents s.scanFormat s.wantResult syms
        txBitCount := s.txBitCount + BitVec.ofNat 32 syms.length
        physSet := physRun s.physSet syms
        adapterPending := s.adapterPending + syms.length } := by
  induction syms generalizing s with
  | nil => simp [deferredEvents, physRun]
  | cons t syms ih =>
    rw [List.foldl_cons, ih]
    simp only [deferredSymbol, countBit, setBitCount, emitCycle, emit, Token.responses, deferredEvents, physRun,
      physAfter, List.map_cons, List.foldl_cons, List.length_cons, List.append_assoc,
      List.singleton_append]
    congr 1
    · rw [Nat.add_comm syms.length 1, BitVec.ofNat_add, BitVec.add_assoc]; rfl
    · omega

theorem transitionsDeferred_eq (str : TmsString) (s : State) :
    transitionsDeferred str s =
      { s with
        chan := s.chan ++ deferredEvents s.scanFormat s.wantResult str.syms
        txBitCount := s.txBitCount + BitVec.ofNat 32 str.syms.length
        physSet := physRun s.physSet str.syms
        adapterPending := s.adapterPending + str.syms.length } :=
  foldl_deferredSymbol _ s

@[simp] theorem Run.andThen_done (s : State) (f : State → Run) : (Run.done s).andThen f = f s := rfl
@[simp] theorem Run.andThen_stopped (s : State) (c : ResultCode) (f : State → Run) :
    (Run.stopped s c).andThen f = .stopped s c := rfl
@[simp] theorem Run.andDo_done (s : State) (f : State → State) : (Run.done s).andDo f = .done (f s) := rfl
@[simp] theorem Run.andDo_stopped (s : State) (c : ResultCode) (f : State → State) :
    (Run.stopped s c).andDo f = .stopped s c := rfl
@[simp] theorem Run.finish_done (v : Bool) (s : State) : (Run.done s).finish v = endCommand .ok v s := rfl
@[simp] theorem Run.finish_stopped (v : Bool) (s : State) (c : ResultCode) :
    (Run.stopped s c).finish v = endCommand c false s := rfl

/-- The symbols of `ZBS_STR` (41_bitscan R142, 30_encoding R91). -/
@[simp] theorem zbsStr_syms (r : Nat) :
    (zbsStr r).syms = (List.replicate r [true, false, true, true]).flatten ++ [false] := by
  unfold zbsStr TmsString.syms
  rw [List.filterMap_append]
  congr 1
  induction r with
  | zero => rfl
  | succ r ih =>
    rw [List.replicate_succ, List.flatten_cons, List.filterMap_append, ih, List.replicate_succ,
      List.flatten_cons]
    rfl

/-- The symbols of `NZBS_STR` (R91). -/
@[simp] theorem nzbsStr_syms (a : Nat) :
    (nzbsStr a).syms = [true, false] ++ List.replicate a false ++ [true, true, false] := by
  unfold nzbsStr TmsString.syms
  rw [List.filterMap_append, List.filterMap_append]
  congr 1
  congr 1
  induction a with
  | zero => rfl
  | succ a ih => rw [List.replicate_succ, List.replicate_succ, List.filterMap_cons, ih]; rfl

@[simp] theorem idleStr_syms : idleStr.syms = [false, true, true, true, true, true, false] := rfl
@[simp] theorem reconnectStr_syms : reconnectStr.syms = [true, true, false, false, true, true, false] := rfl
@[simp] theorem lockStr_syms : lockStr.syms = [false, false, false] := rfl
@[simp] theorem dummyStr_syms : dummyStr.syms = [false] := rfl

theorem zeroBitScan_inRange {r : Nat} (h : r ≤ Config.maxBitscan) (s : State) :
    zeroBitScan r s =
      .done (afterEvents (immediateEvents s.scanFormat s.wantResult (zbsStr r).syms) s) := by
  rw [zeroBitScan, if_neg (by omega), transitionsImmediate_eq]

theorem nonZeroBitScan_inRange {a : Nat} (h : a ≤ Config.maxBitscan) (s : State) :
    nonZeroBitScan a s =
      .done (afterEvents (immediateEvents s.scanFormat s.wantResult (nzbsStr a).syms) s) := by
  rw [nonZeroBitScan, if_neg (by omega), transitionsImmediate_eq]

theorem zeroBitScan_overRange {r : Nat} (h : Config.maxBitscan < r) (s : State) :
    zeroBitScan r s = raiseFault .faultZbsRange r s := by
  rw [zeroBitScan, if_pos h]

theorem nonZeroBitScan_overRange {a : Nat} (h : Config.maxBitscan < a) (s : State) :
    nonZeroBitScan a s = raiseFault .faultNzbsRange a s := by
  rw [nonZeroBitScan, if_pos h]

/-- `tap_move` (43_tap_scan R190). -/
theorem tapMove_defined {s : State} {goal : Tap} {str : TmsString} (h : tapTable s.tapState goal = some str) :
    tapMove goal s = setTapState goal (transitionsDeferred str s) := by
  simp [tapMove, h]

theorem tapMove_undefined {s : State} {goal : Tap} (h : tapTable s.tapState goal = none) :
    tapMove goal s = s := by
  simp [tapMove, h]

/-- `FMTSW` to the format the link is in does nothing (40_packet_encoder R123, property P1). -/
theorem formatSwitch_same {s : State} {f : ScanFormat} (h : s.scanFormat = f) : formatSwitch f s = s := by
  simp [formatSwitch, h]

theorem mem_physStep {phys : List Tap} {t : Bool} {q : Tap} :
    q ∈ physStep phys t ↔ ∃ p ∈ phys, tapNext p t = q := by
  have all : q ∈ Tap.all := by cases q <;> simp [Tap.all]
  simp [physStep, all]

theorem responses_length (a : List Byte) (d n : Nat) : (responses a d n).length = n := by
  simp [responses]; omega

end Sys2Proof.Machine
end

