-- ==== Sys2Proof/Laws/Mode.lean ====
section
/-! SUPPORT. What the steps of the encoder, bit-scan and mode commands leave behind when every count is in range,
one lemma per function, in the events of `Stated`. The state inside a command is written `s.reached fmt wr tap e`:
the start state `s` after the events `e`, in format `fmt` with `want_result` `wr` and tracked state `tap`. -/

namespace Sys2Proof.Machine

open Sys2Proof.Stated

theorem zbsStr_eq (r : Nat) : (zbsStr r).syms = zbsSyms r := zbsStr_syms r
theorem nzbsStr_eq (a : Nat) : (nzbsStr a).syms = nzbsSyms a := nzbsStr_syms a

@[simp] theorem zbsSyms_length (r : Nat) : (zbsSyms r).length = 4 * r + 1 := by
  simp [zbsSyms, Nat.mul_comm]

@[simp] theorem nzbsSyms_length (a : Nat) : (nzbsSyms a).length = a + 5 := by
  simp [nzbsSyms]

@[simp] theorem ecmSyms_length (l : Nat) : (ecmSyms l).length = 4 * l + 10 := by
  simp [ecmSyms, lockSyms]

/-- The state a command has reached: the events `e` since `s`, and the three registers the mode commands write. -/
def State.reached (s : State) (fmt : ScanFormat) (wr : Bool) (tap : Tap) (e : List ChanEvent) : State :=
  { afterEvents e s with scanFormat := fmt, wantResult := wr, tapState := tap }

section
variable (s : State) (fmt : ScanFormat) (wr : Bool) (tap : Tap) (e : List ChanEvent)

@[simp] theorem reached_scanFormat : (s.reached fmt wr tap e).scanFormat = fmt := rfl
@[simp] theorem reached_wantResult : (s.reached fmt wr tap e).wantResult = wr := rfl
@[simp] theorem reached_tapState : (s.reached fmt wr tap e).tapState = tap := rfl
@[simp] theorem reached_params : (s.reached fmt wr tap e).params = s.params := rfl

@[simp] theorem setWantResult_reached (w : Bool) :
    setWantResult w (s.reached fmt wr tap e) = s.reached fmt w tap e := rfl
@[simp] theorem setScanFormat_reached (f : ScanFormat) :
    setScanFormat f (s.reached fmt wr tap e) = s.reached f wr tap e := rfl
@[simp] theorem setTapState_reached (t : Tap) :
    setTapState t (s.reached fmt wr tap e) = s.reached fmt wr t e := rfl

theorem reached_self : s.reached s.scanFormat s.wantResult s.tapState [] = s := by
  simp [State.reached]

@[simp] theorem afterEvents_reached (f : List ChanEvent) :
    afterEvents f (s.reached fmt wr tap e) = s.reached fmt wr tap (e ++ f) := by
  rw [State.reached, State.reached, afterEvents_append]
  rfl

@[simp] theorem transitionsImmediate_reached (str : TmsString) :
    transitionsImmediate str (s.reached fmt wr tap e) =
      s.reached fmt wr tap (e ++ immediateEvents fmt wr str.syms) := by
  rw [transitionsImmediate_eq, afterEvents_reached]
  rfl

theorem emit_chk_reached (f : ScanFormat) :
    emit (.chk f) (s.reached fmt wr tap e) = s.reached fmt wr tap (e ++ [.write (.chk f)]) := by
  rw [← afterEvents_reached]
  have hc : cycleCount [.write (.chk f)] = 0 := rfl
  have hr : readCount [.write (.chk f)] = 0 := rfl
  simp [emit, afterEvents, hc, hr, Token.responses, physEvent]

theorem emit_fsw_reached (f : ScanFormat) :
    emit (.fsw f) (s.reached fmt wr tap e) = s.reached fmt wr tap (e ++ [.write (.fsw f)]) := by
  rw [← afterEvents_reached]
  have hc : cycleCount [.write (.fsw f)] = 0 := rfl
  have hr : readCount [.write (.fsw f)] = 0 := rfl
  simp [emit, afterEvents, hc, hr, Token.responses, physEvent]

/-- `CHECK` (40_packet_encoder R124). -/
@[simp] theorem checkPacket_reached :
    checkPacket (s.reached fmt wr tap e) = s.reached fmt wr tap (e ++ checkEvents fmt wr) := by
  unfold checkPacket checkEvents
  cases fmt <;> simp [emit_chk_reached]

/-- `FMTSW` (R123). -/
theorem formatSwitch_reached (f : ScanFormat) :
    formatSwitch f (s.reached fmt wr tap e) =
      s.reached f wr tap (e ++ if fmt = f then [] else [.write (.fsw f)]) := by
  unfold formatSwitch
  by_cases h : fmt = f
  · subst h; simp
  · rw [reached_scanFormat, if_neg h, if_neg h, emit_fsw_reached, setScanFormat_reached]

/-- `ZBS` (41_bitscan R142). -/
theorem zeroBitScan_reached {r : Nat} (h : r ≤ Config.maxBitscan) :
    zeroBitScan r (s.reached fmt wr tap e) =
      .done (s.reached fmt wr tap (e ++ immediateEvents fmt wr (zbsSyms r))) := by
  rw [zeroBitScan, if_neg (by omega), transitionsImmediate_reached, zbsStr_eq]

/-- `NZBS` (R143). -/
theorem nonZeroBitScan_reached {a : Nat} (h : a ≤ Config.maxBitscan) :
    nonZeroBitScan a (s.reached fmt wr tap e) =
      .done (s.reached fmt wr tap (e ++ immediateEvents fmt wr (nzbsSyms a))) := by
  rw [nonZeroBitScan, if_neg (by omega), transitionsImmediate_reached, nzbsStr_eq]

/-- `TWOPART` (R145). -/
theorem twoPart_reached {o p : Nat} (ho : o ≤ Config.maxBitscan) (hp : p ≤ Config.maxBitscan) :
    twoPart o p (s.reached fmt wr tap e) =
      .done (s.reached fmt wr tap (e ++ twoPartEvents fmt wr o p)) := by
  unfold twoPart twoPartEvents
  rw [nonZeroBitScan_reached _ _ _ _ _ ho, Run.andThen_done, nonZeroBitScan_reached _ _ _ _ _ hp,
    Run.andDo_done, immediateEvents_append]
  cases fmt <;> simp

/-- `ECM` (R144). -/
theorem enterControlMode_reached {l : Nat} (h : l ≤ Config.maxBitscan) :
    enterControlMode l (s.reached fmt wr tap e) =
      .done (s.reached fmt wr tap (e ++ immediateEvents fmt wr (ecmSyms l))) := by
  unfold enterControlMode ecmSyms
  rw [zeroBitScan_reached _ _ _ _ _ h, Run.andThen_done, nonZeroBitScan_reached _ _ _ _ _ (by decide),
    Run.andDo_done, transitionsImmediate_reached, immediateEvents_append, immediateEvents_append]
  simp [lockSyms]

/-- `OSCAN1` (42_mode R164). -/
theorem enterOscan1_reached (h1 : s.params.stfmt ≤ Config.maxBitscan)
    (h2 : s.params.oscan1Param ≤ Config.maxBitscan) :
    enterOscan1 (s.reached fmt wr tap e) =
      .done (s.reached .oscan1 wr tap (e ++ oscan1Events s.params fmt wr)) := by
  unfold enterOscan1 oscan1Events
  rw [reached_params, twoPart_reached _ _ _ _ _ h1 h2, Run.andDo_done, Run.andDo_done, checkPacket_reached,
    reached_params]
  cases s.params.oscan1Switch
  · rw [if_neg (by decide), setScanFormat_reached]
    simp
  · rw [if_pos rfl, formatSwitch_reached]
    cases fmt <;> simp

/-- The first steps of `set_to_idle()` (R161). -/
@[simp] theorem forceIdle_reached :
    forceIdle (s.reached fmt wr tap e) = s.reached fmt wr .idle (e ++ immediateEvents fmt wr idleSyms) := by
  unfold forceIdle
  simp [idleSyms]

/-- `E2W` after a `set_to_idle()` (R163). -/
theorem enterTwoWire_reached {toIdle : State → Run} {fmt' : ScanFormat} {e' : List ChanEvent}
    (hi : toIdle (s.reached fmt false tap e) = .done (s.reached fmt' false .idle e'))
    (h : ∀ n ∈ recoveryCounts s.params, n ≤ Config.maxBitscan) :
    enterTwoWire toIdle (s.reached fmt wr tap e) =
      .done (s.reached .oscan1 wr .idle (e' ++ twoWireEvents s.params fmt')) := by
  simp only [recoveryCounts, List.mem_cons, List.not_mem_nil, or_false, forall_eq_or_imp, forall_eq] at h
  obtain ⟨h1, h2, h3, h4⟩ := h
  unfold enterTwoWire twoWireEvents
  rw [setWantResult_reached, hi, Run.andThen_done, enterControlMode_reached _ _ _ _ _ (by decide),
    Run.andThen_done, enterOscan1_reached _ _ _ _ _ h1 h2, Run.andThen_done, reached_params,
    twoPart_reached _ _ _ _ _ h3 h4, Run.andDo_done, Run.andDo_done, reached_params]
  cases s.params.e2wTouch <;> simp [reconnectSyms]

/-- `set_to_idle()` (R161, R166): it keeps the format, through the recovery when that is OSCAN1. -/
theorem setToIdle_reached
    (h : fmt = .oscan1 → ∀ n ∈ recoveryCounts s.params, n ≤ Config.maxBitscan) :
    setToIdle (s.reached fmt wr tap e) =
      .done (s.reached fmt wr .idle (e ++ setIdleEvents s.params fmt wr)) := by
  unfold setToIdle setIdleEvents recoverTwoWire
  rw [forceIdle_reached, reached_scanFormat]
  cases fmt with
  | normal => simp
  | oscan1 =>
    rw [if_neg (by decide), formatSwitch_reached, forceIdle_reached,
      enterTwoWire_reached s .normal wr .idle _ (fmt' := .normal)
        (by rw [forceIdle_reached]) (h rfl)]
    simp

/-- `E2WTEST` (R162). -/
theorem enterTwoWireAndTest_reached (h : ∀ n ∈ bringUpCounts s.params fmt .e2wtest, n ≤ Config.maxBitscan) :
    enterTwoWireAndTest (s.reached fmt wr tap e) =
      .done (s.reached .oscan1 wr .idle (e ++ e2wTestEvents s.params fmt)) := by
  have hr : fmt = .oscan1 → ∀ n ∈ recoveryCounts s.params, n ≤ Config.maxBitscan := by
    intro hf n hn
    exact h n (by simp [bringUpCounts, hf, hn])
  have h1 : s.params.stfmt ≤ Config.maxBitscan := h _ (by cases fmt <;> simp [bringUpCounts])
  have h2 : s.params.oscan1Param ≤ Config.maxBitscan := h _ (by cases fmt <;> simp [bringUpCounts])
  unfold enterTwoWireAndTest e2wTestEvents
  rw [setWantResult_reached, setToIdle_reached _ _ _ _ _ hr, Run.andThen_done,
    enterControlMode_reached _ _ _ _ _ (by decide), Run.andThen_done, enterOscan1_reached _ _ _ _ _ h1 h2,
    Run.andDo_done, Run.andDo_done]
  simp [reconnectSyms]

end

/-- The states a run of TMS values leads a set to are those it leads the members to (10_state R39). -/
theorem mem_physRun {phys : List Tap} {syms : List Bool} {q : Tap} :
    q ∈ physRun phys syms ↔ ∃ p ∈ phys, tapRun p syms = q := by
  induction syms generalizing phys with
  | nil => simp [physRun, tapRun]
  | cons b syms ih =>
    have : physRun phys (b :: syms) = physRun (physStep phys b) syms := rfl
    rw [this, ih]
    constructor
    · rintro ⟨p, hp, rfl⟩
      obtain ⟨r, hr, rfl⟩ := mem_physStep.1 hp
      exact ⟨r, hr, rfl⟩
    · rintro ⟨p, hp, rfl⟩
      exact ⟨tapNext p b, mem_physStep.2 ⟨p, hp, rfl⟩, rfl⟩

end Sys2Proof.Machine
end

