-- ==== Sys2Proof/Laws/BringUp.lean ====
section
/-! SUPPORT. The bring-up procedures for all parameters: each follows its pieces (`Stated.Piece`) up to the first check
of a count above 10, and takes the fault there, or to their end (60_exceptions R232, R236). -/

namespace Sys2Proof.Machine

open Sys2Proof.Stated

/-- The run of pieces from the state with events `e` since `s`: at their end in format `fmt` with `want_result` `wr`, or
at a fault with `want_result` `wrFault`; `tap` is the tracked state throughout. -/
def follows (s : State) (wrFault : Bool) (tap : Tap) (e : List ChanEvent) (fmt : ScanFormat) (wr : Bool)
    (ps : List Piece) : Run :=
  match (upToFault ps).2 with
  | none => .done (s.reached fmt wr tap (e ++ (upToFault ps).1))
  | some (n, f) => raiseFault .faultNzbsRange n (s.reached f wrFault tap (e ++ (upToFault ps).1))

variable {s : State} {wrF wr wr' : Bool} {tap : Tap} {e : List ChanEvent} {fmt fmt' : ScanFormat}

theorem upToFault_append (ps qs : List Piece) :
    upToFault (ps ++ qs) =
      match (upToFault ps).2 with
      | none => ((upToFault ps).1 ++ (upToFault qs).1, (upToFault qs).2)
      | some c => ((upToFault ps).1, some c) := by
  induction ps with
  | nil => rfl
  | cons p ps ih =>
    cases p with
    | send x =>
      simp only [List.cons_append, upToFault, ih]
      cases (upToFault ps).2 <;> simp
    | check n f =>
      simp only [List.cons_append, upToFault]
      split
      · rfl
      · exact ih

theorem follows_nil : follows s wrF tap e fmt wr [] = .done (s.reached fmt wr tap e) := by
  simp [follows, upToFault]

theorem follows_send (x : List ChanEvent) (ps : List Piece) :
    follows s wrF tap e fmt wr (.send x :: ps) = follows s wrF tap (e ++ x) fmt wr ps := by
  simp [follows, upToFault]

/-- The pieces of two procedures run one after the other. -/
theorem follows_andThen {ps qs : List Piece} {g : State → Run}
    (h : ∀ e, g (s.reached fmt wr tap e) = follows s wrF tap e fmt' wr' qs) :
    (follows s wrF tap e fmt wr ps).andThen g = follows s wrF tap e fmt' wr' (ps ++ qs) := by
  unfold follows
  rw [upToFault_append]
  cases hp : (upToFault ps).2 with
  | none =>
    simp only [Run.andThen_done, h, follows, List.append_assoc]
  | some c => rfl

theorem follows_andDo {ps qs : List Piece} {g : State → State}
    (h : ∀ e, Run.done (g (s.reached fmt wr tap e)) = follows s wrF tap e fmt' wr' qs) :
    (follows s wrF tap e fmt wr ps).andDo g = follows s wrF tap e fmt' wr' (ps ++ qs) := follows_andThen h

/-- `NZBS` (41_bitscan R143). -/
theorem nonZeroBitScan_follows (n : Nat) :
    nonZeroBitScan n (s.reached fmt wr tap e) = follows s wr tap e fmt wr (nzbsPieces fmt wr n) := by
  by_cases h : 10 < n
  · rw [nonZeroBitScan_overRange h]
    simp [follows, nzbsPieces, upToFault, h]
  · rw [nonZeroBitScan_reached _ _ _ _ _ (Nat.le_of_not_lt h)]
    simp [follows, nzbsPieces, upToFault, h]

/-- `TWOPART` (R145). -/
theorem twoPart_follows (o p : Nat) :
    twoPart o p (s.reached fmt wr tap e) = follows s wr tap e fmt wr (twoPartPieces fmt wr o p) := by
  unfold twoPart twoPartPieces
  rw [nonZeroBitScan_follows, follows_andThen (fun _ => nonZeroBitScan_follows p)]
  refine follows_andDo fun e => ?_
  rw [follows_send, follows_nil]
  cases fmt <;> simp

/-- `OSCAN1` (42_mode R164). -/
theorem enterOscan1_follows :
    enterOscan1 (s.reached fmt wr tap e) = follows s wr tap e .oscan1 wr (oscan1Pieces s.params fmt wr) := by
  unfold enterOscan1 oscan1Pieces
  rw [reached_params, twoPart_follows,
    follows_andDo (fmt' := fmt) (wr' := wr) (qs := [.send (checkEvents fmt wr)]) fun e => by
      rw [checkPacket_reached, follows_send, follows_nil],
    follows_andDo (fmt' := .oscan1) (wr' := wr)
      (qs := [.send (if s.params.oscan1Switch = true ∧ fmt = .normal then [.write (.fsw .oscan1)] else [])]) fun e => by
        rw [follows_send, follows_nil, reached_params]
        cases s.params.oscan1Switch
        · simp
        · simp only [if_true, true_and, formatSwitch_reached]
          cases fmt <;> simp]
  simp

/-- `E2W` with the `set_to_idle()` it calls (R163). -/
theorem enterTwoWire_follows {toIdle : State → Run} {ps : List Piece}
    (hi : toIdle (s.reached fmt false tap e) = follows s false .idle e fmt' false ps) :
    enterTwoWire toIdle (s.reached fmt wr tap e) =
      follows s false .idle e .oscan1 wr (ps ++ twoWirePieces s.params fmt') := by
  have ecm : ∀ e, enterControlMode 2 (s.reached fmt' false .idle e) =
      follows s false .idle e fmt' false [.send (immediateEvents fmt' false (ecmSyms 2))] := fun e => by
    rw [follows_send, follows_nil, enterControlMode_reached _ _ _ _ _ (by decide)]
  have touch : ∀ e, Run.done (setWantResult wr
      (if s.params.e2wTouch then transitionsImmediate reconnectStr (s.reached .oscan1 false .idle e)
        else s.reached .oscan1 false .idle e)) = follows s false .idle e .oscan1 wr
      [.send (if s.params.e2wTouch then immediateEvents .oscan1 false reconnectSyms else [])] := fun e => by
    rw [follows_send, follows_nil]
    cases s.params.e2wTouch <;> simp [reconnectSyms]
  unfold enterTwoWire
  rw [setWantResult_reached, hi, follows_andThen ecm, follows_andThen fun _ => enterOscan1_follows,
    follows_andThen fun _ => by rw [reached_params]; exact twoPart_follows _ _]
  have two (r : Run) (f g : State → State) : (r.andDo f).andDo g = r.andDo fun t => g (f t) := by cases r <;> rfl
  rw [two, follows_andDo fun e => by rw [reached_wantResult, reached_params]; exact touch e]
  simp only [twoWirePieces, List.append_assoc]

/-- `set_to_idle()` (R161, R166). -/
theorem setToIdle_follows :
    setToIdle (s.reached fmt wr tap e) = follows s false .idle e fmt wr (setIdlePieces s.params fmt wr) := by
  unfold setToIdle recoverTwoWire
  rw [forceIdle_reached, reached_scanFormat]
  cases fmt with
  | normal => rw [if_pos rfl, setIdlePieces, follows_send, follows_nil]
  | oscan1 =>
    rw [if_neg (by decide), formatSwitch_reached, forceIdle_reached,
      enterTwoWire_follows (fmt' := .normal) (ps := [.send (immediateEvents .normal false idleSyms)]) (by
        rw [forceIdle_reached, follows_send, follows_nil])]
    simp [setIdlePieces, follows_send]

/-- `E2WTEST` (R162). -/
theorem enterTwoWireAndTest_follows :
    enterTwoWireAndTest (s.reached fmt wr tap e) =
      follows s false .idle e .oscan1 wr (twoWireTestPieces s.params fmt) := by
  have ecm : ∀ e, enterControlMode 2 (s.reached fmt false .idle e) =
      follows s false .idle e fmt false [.send (immediateEvents fmt false (ecmSyms 2))] := fun e => by
    rw [follows_send, follows_nil, enterControlMode_reached _ _ _ _ _ (by decide)]
  unfold enterTwoWireAndTest
  rw [setWantResult_reached, setToIdle_follows, follows_andThen ecm, follows_andThen fun _ => enterOscan1_follows]
  have two (r : Run) (f g : State → State) : (r.andDo f).andDo g = r.andDo fun t => g (f t) := by cases r <;> rfl
  rw [two, follows_andDo (fmt' := .oscan1) (wr' := wr)
    (qs := [.send (immediateEvents .oscan1 false reconnectSyms)]) fun e => by
      rw [follows_send, follows_nil]
      simp [reconnectSyms]]
  simp only [twoWireTestPieces, List.append_assoc]

/-- The first steps of `INIT` (R165), up to its `E2WTEST`: since `s'`, the start state with `tx_bit_count` 0. -/
theorem init_start (s : State) :
    escapeSequence (pinInit (setBitCount 0 (setWantResult true (setScanFormat .normal s)))) =
      (setBitCount 0 s).reached .normal true s.tapState [.write .pinInit, .read 1, .write .esc] := by
  have hc : cycleCount [.write .pinInit, .read 1, .write .esc] = 0 := rfl
  have hr : readCount [.write .pinInit, .read 1, .write .esc] = 1 := rfl
  simp [escapeSequence, pinInit, emit, afterRead, setBitCount, setWantResult, setScanFormat, State.reached,
    Token.responses, physAfter, physEvent, afterEvents, hc, hr]

/-- `INIT` (R165). -/
theorem initialise_follows (s : State) :
    initialise s = (follows (setBitCount 0 s) false .idle [] .oscan1 true
      (bringUpPieces s.params s.scanFormat s.wantResult .init)).andDo fun t => clearPending (setInitialized t) := by
  unfold initialise
  rw [init_start, setToIdle_follows, follows_andThen fun _ => enterTwoWireAndTest_follows]
  simp [bringUpPieces, setIdlePieces, follows_send, setBitCount]

end Sys2Proof.Machine
end

