-- ==== Sys2Proof/Laws/Tap.lean ====
section
/-! SUPPORT. The physical TAP under the strings the block sends (10_state R39, R40). -/

namespace Sys2Proof.Machine

open Sys2Proof.Stated

theorem physStep_singleton (p : Tap) (b : Bool) : physStep [p] b = [tapNext p b] := by
  cases p <;> cases b <;> decide

/-- From one known state a run of TMS values leads to one known state. -/
theorem physRun_singleton (p : Tap) (syms : List Bool) : physRun [p] syms = [tapRun p syms] := by
  induction syms generalizing p with
  | nil => rfl
  | cons b syms ih =>
    have h : physRun [p] (b :: syms) = physRun (physStep [p] b) syms := rfl
    rw [h, physStep_singleton, ih]
    rfl

theorem tapRun_append (p : Tap) (a b : List Bool) : tapRun p (a ++ b) = tapRun (tapRun p a) b := by
  simp [tapRun]

/-- A state in which TMS 0 loops is not left by zeros. -/
theorem tapRun_replicate_false {p : Tap} (h : tapNext p false = p) (n : Nat) :
    tapRun p (List.replicate n false) = p := by
  induction n with
  | zero => rfl
  | succ n ih =>
    have e : tapRun p (List.replicate (n + 1) false) = tapRun (tapNext p false) (List.replicate n false) := rfl
    rw [e, h, ih]

/-- The strings the bit-scan and mode commands send from IDLE lead back to IDLE (41_bitscan R146). -/
theorem tapRun_zbsSyms (r : Nat) : tapRun .idle (zbsSyms r) = .idle := by
  have key : ∀ p, p = Tap.idle ∨ p = .drUpdate →
      tapRun p (List.replicate r [true, false, true, true]).flatten = p ∨
      tapRun p (List.replicate r [true, false, true, true]).flatten = .drUpdate := by
    induction r with
    | zero => intro p _; exact .inl rfl
    | succ r ih =>
      intro p hp
      rw [List.replicate_succ, List.flatten_cons, tapRun_append]
      have : tapRun p [true, false, true, true] = .drUpdate := by rcases hp with rfl | rfl <;> rfl
      rw [this]
      exact .inr ((ih .drUpdate (.inr rfl)).elim id id)
  rw [zbsSyms, tapRun_append]
  rcases key .idle (.inl rfl) with h | h <;> rw [h] <;> rfl

theorem tapRun_nzbsSyms (a : Nat) : tapRun .idle (nzbsSyms a) = .idle := by
  rw [nzbsSyms, tapRun_append, tapRun_append]
  cases a with
  | zero => rfl
  | succ a =>
    have h : tapRun (tapRun .idle [true, false]) (List.replicate (a + 1) false) =
        tapRun .drShift (List.replicate a false) := rfl
    rw [h, tapRun_replicate_false rfl]
    rfl

theorem tapRun_ecmSyms (l : Nat) : tapRun .idle (ecmSyms l) = .idle := by
  rw [ecmSyms, tapRun_append, tapRun_append, tapRun_zbsSyms, tapRun_nzbsSyms]
  rfl

theorem tapRun_reconnectSyms : tapRun .idle reconnectSyms = .idle := rfl

theorem tapRun_idleSyms (p : Tap) : tapRun p idleSyms = .idle := by cases p <;> rfl

theorem physStep_congr {a b : List Tap} (h : ∀ q, q ∈ a ↔ q ∈ b) (t : Bool) : physStep a t = physStep b t := by
  unfold physStep
  refine List.filter_congr fun q _ => ?_
  rw [Bool.eq_iff_iff]
  simp [h]

/-- `IDLE_STR` forces every set of states but the empty one to IDLE. -/
theorem physRun_idleSyms {phys : List Tap} (h : phys ≠ []) : physRun phys idleSyms = [.idle] := by
  obtain ⟨p, hp⟩ := List.exists_mem_of_ne_nil phys h
  have e (ph : List Tap) : physRun ph idleSyms =
      physStep (physRun ph [false, true, true, true, true, true]) false := rfl
  have reset : ∀ q : Tap, tapRun q [false, true, true, true, true, true] = .reset := by
    intro q; cases q <;> rfl
  rw [e]
  rw [physStep_congr (b := [.reset]), physStep_singleton]
  · rfl
  · intro q
    rw [mem_physRun, List.mem_singleton]
    constructor
    · rintro ⟨r, -, rfl⟩; exact reset r
    · rintro rfl; exact ⟨p, hp, reset p⟩

end Sys2Proof.Machine
end

