-- ==== Sys2Proof/Laws/Scan.lean ====
section
/-! SUPPORT. What the steps of `SCAN` leave behind (43_tap_scan R200, R207 to R212), one lemma per step. -/

namespace Sys2Proof.Machine

open Sys2Proof.Stated

/-- The model's table and the stated one hold the same strings (30_encoding R99). -/
theorem tapTable_syms (a b : Tap) : (tapTable a b).map TmsString.syms = moveSyms a b := by
  cases a <;> cases b <;> rfl

/-- `tap_move` (R190) in the stated table. -/
theorem tapMove_eq (goal : Tap) (s : State) :
    tapMove goal s =
      { s with
        chan := s.chan ++ deferredEvents s.scanFormat s.wantResult ((moveSyms s.tapState goal).getD [])
        txBitCount := s.txBitCount + BitVec.ofNat 32 ((moveSyms s.tapState goal).getD []).length
        tapState := if (moveSyms s.tapState goal).isSome then goal else s.tapState
        physSet := physRun s.physSet ((moveSyms s.tapState goal).getD [])
        adapterPending := s.adapterPending + ((moveSyms s.tapState goal).getD []).length } := by
  rw [← tapTable_syms]
  unfold tapMove
  cases h : tapTable s.tapState goal with
  | none => simp [deferredEvents, physRun]
  | some str =>
    simp only [Option.map_some, Option.getD_some, Option.isSome_some, if_true]
    rw [transitionsDeferred_eq]
    rfl

/-- The longest strings of the table (43_tap_scan R192). -/
theorem moveSyms_length_le (a b : Tap) : ((moveSyms a b).getD []).length ≤ 6 := by
  cases a <;> cases b <;> decide

/-- The payload cycles (R208), for any list of bit numbers. -/
theorem foldl_payloadCycle (hasOut : Bool) (n : Nat) (l : List Nat) (s : State) :
    l.foldl (payloadCycle hasOut n) s =
      { s with
        chan := s.chan ++ l.map fun i =>
          .write (.cyc s.scanFormat s.wantResult (i + 1 == n) (hasOut && bitOf s.out i))
        physSet := physRun s.physSet (l.map fun i => i + 1 == n)
        adapterPending := s.adapterPending + l.length } := by
  induction l generalizing s with
  | nil => simp [physRun]
  | cons i l ih =>
    have hb : outBit hasOut i s = (hasOut && bitOf s.out i) := by
      cases hasOut <;> simp [outBit, bitOf, Memory.bit]
    have hd : decide (i + 1 = n) = (i + 1 == n) := by
      rw [Bool.eq_iff_iff]; simp
    rw [List.foldl_cons, ih]
    simp only [payloadCycle, emitCycle, emit, Token.responses, physAfter, hb, hd, physRun, List.map_cons,
      List.foldl_cons, List.length_cons, List.append_assoc, List.singleton_append]
    congr 1
    omega

/-- Step 3 (R207). -/
theorem scanPreamble_eq (ir : Bool) (s : State) :
    scanPreamble ir s =
      { s with
        chan := s.chan ++ deferredEvents s.scanFormat s.wantResult (scanPre ir s.tapState)
        txBitCount := s.txBitCount + BitVec.ofNat 32 (scanPre ir s.tapState).length
        tapState := tapAfterPre ir s.tapState
        physSet := physRun s.physSet (scanPre ir s.tapState)
        adapterPending := s.adapterPending + (scanPre ir s.tapState).length } := by
  have hs : shiftState ir = scanShift ir := rfl
  unfold scanPreamble scanPre tapAfterPre
  rw [hs]
  by_cases h : s.tapState = scanShift ir
  · rw [if_pos h, if_pos h, h]
    cases ir <;> simp [deferredEvents, physRun, ← h]
  · rw [if_neg h, if_neg h, tapMove_eq]

/-- Step 4 (R208, R209, R214). -/
theorem scanPayload_eq (ir hasOut : Bool) (n : Nat) (s : State) :
    scanPayload ir hasOut n s =
      { s with
        chan := s.chan ++ payloadEvents s.scanFormat s.wantResult hasOut n s.out
        tapState := if n = 0 then s.tapState else scanExit1 ir
        physSet := physRun s.physSet (payloadTms n)
        adapterPending := s.adapterPending + n } := by
  unfold scanPayload
  simp only [foldl_payloadCycle, payloadEvents, payloadTms, List.length_range]
  by_cases h : n = 0
  · simp [h]
  · simp [h, setTapState, exit1State, scanExit1]

theorem cycleCount_deferredEvents (fmt : ScanFormat) (wr : Bool) (syms : List Bool) :
    cycleCount (deferredEvents fmt wr syms) = syms.length := by
  induction syms with
  | nil => rfl
  | cons t syms ih =>
    have : cycleCount (deferredEvents fmt wr (t :: syms)) =
        cycleCount ([ChanEvent.write (.cyc fmt wr t false)] ++ deferredEvents fmt wr syms) := rfl
    rw [this, cycleCount_append, ih]
    simp [cycleCount, ChanEvent.isCycle, Nat.add_comm]

theorem cycleCount_payloadEvents (fmt : ScanFormat) (wr hasOut : Bool) (n : Nat) (out : Memory) :
    cycleCount (payloadEvents fmt wr hasOut n out) = n := by
  unfold cycleCount payloadEvents
  rw [List.countP_map]
  have : (ChanEvent.isCycle ∘ fun i => ChanEvent.write (.cyc fmt wr (i + 1 == n) (hasOut && bitOf out i))) =
      fun _ => true := rfl
  rw [this]
  simp

/-- The postamble is at most two cycles, the preamble at most six. -/
theorem scanPre_length_le (ir : Bool) (tap : Tap) : (scanPre ir tap).length ≤ 6 := by
  unfold scanPre
  split
  · exact Nat.zero_le _
  · exact moveSyms_length_le _ _

theorem scanPost_length_le (ir : Bool) (n : Nat) (goal tap : Tap) : (scanPost ir n goal tap).length ≤ 6 :=
  moveSyms_length_le _ _

/-- Steps 2 to 5 (R206 to R210): the cycles of the scan, all their bytes pending. -/
def scanSent (ir : Bool) (goal : Tap) (hasOut : Bool) (n : Nat) (s : State) : State :=
  { s with
    chan := s.chan ++ scanCycles ir goal hasOut n s
    txBitCount := BitVec.ofNat 32 ((scanPre ir s.tapState).length + (scanPost ir n goal s.tapState).length)
    tapState := scanEnd ir n goal s.tapState
    physSet := physRun s.physSet (scanTms ir goal n s.tapState)
    adapterPending := s.adapterPending + scanLength ir n goal s.tapState }

theorem scan_sent_eq (ir : Bool) (goal : Tap) (hasOut : Bool) (n : Nat) (s : State) :
    tapMove goal (scanPayload ir hasOut n (scanPreamble ir (setBitCount 0 s))) =
      scanSent ir goal hasOut n s := by
  rw [scanPreamble_eq, scanPayload_eq, tapMove_eq]
  simp only [scanSent, setBitCount, scanCycles, scanTms, scanPost, scanEnd, scanLength, tapAfterPayload,
    List.append_assoc, physRun, List.foldl_append, BitVec.ofNat_add]
  congr 1
  · have z : (0 : BitVec 32) + BitVec.ofNat 32 (scanPre ir s.tapState).length =
        BitVec.ofNat 32 (scanPre ir s.tapState).length := BitVec.zero_add _
    rw [z]
  · omega

theorem cycleCount_scanCycles (ir : Bool) (goal : Tap) (hasOut : Bool) (n : Nat) (s : State) :
    cycleCount (scanCycles ir goal hasOut n s) = scanLength ir n goal s.tapState := by
  simp [scanCycles, cycleCount_deferredEvents, cycleCount_payloadEvents, scanLength, Nat.add_assoc]

/-- Step 6 (R211): the number of bytes read is the number of cycles of the scan. -/
theorem scanReceive_sent (ir : Bool) (goal : Tap) (hasOut : Bool) (n : Nat) (s : State) :
    scanReceive n (scanLength ir n goal s.tapState) (scanSent ir goal hasOut n s) =
      { scanSent ir goal hasOut n s with
        chan := s.chan ++ scanCycles ir goal hasOut n s ++ [.read (scanLength ir n goal s.tapState)]
        rx := s.rx.writeList 0 (responses s.adapterIn s.drawn (scanLength ir n goal s.tapState))
        adapterPending := s.adapterPending
        chanMisaligned := s.chanMisaligned || s.adapterPending != 0
        countMisaligned := s.countMisaligned || s.adapterPending != 0
        adapterIn := s.adapterIn.drop (scanLength ir n goal s.tapState)
        drawn := s.drawn + (scanLength ir n goal s.tapState - s.adapterIn.length) } := by
  have hp := scanPre_length_le ir s.tapState
  have hq := scanPost_length_le ir n goal s.tapState
  have hn : n + (BitVec.ofNat 32 ((scanPre ir s.tapState).length + (scanPost ir n goal s.tapState).length)).toNat
      = scanLength ir n goal s.tapState := by
    rw [BitVec.toNat_ofNat, Nat.mod_eq_of_lt (by omega), scanLength]
    omega
  unfold scanReceive
  simp only [scanSent, hn, writeRx, afterRead, markMisaligned, readAnswer]
  congr 1
  · omega
  all_goals
    rw [Bool.eq_iff_iff]
    simp

/-- Step 7 (R212) touches `IN` only. -/
theorem scanExtract_eq (hasIn : Bool) (n pre : Nat) (s : State) :
    scanExtract hasIn n pre s =
      { s with
        inp := if hasIn then (List.range n).foldl (fun m i => m.setBit i ((s.rx.read (i + pre)).getLsbD 7)) s.inp
          else s.inp } := by
  have key : ∀ (l : List Nat) (u : State),
      l.foldl (fun t i => setInBit i (tdo (readByte .rx (i + pre) t)) t) u =
        { u with inp := l.foldl (fun m i => m.setBit i ((u.rx.read (i + pre)).getLsbD 7)) u.inp } := by
    intro l
    induction l with
    | nil => intro u; rfl
    | cons i l ih =>
      intro u
      rw [List.foldl_cons, ih]
      rfl
  unfold scanExtract
  cases hasIn
  · rfl
  · rw [if_pos rfl, key]
    rfl

/-- The first bits of a buffer, written one after the other (R63, R212). -/
theorem wf_foldl_setBit (f : Nat → Bool) (l : List Nat) {m : Memory} (h : m.wf) :
    (l.foldl (fun m i => m.setBit i (f i)) m).wf := by
  induction l generalizing m with
  | nil => exact h
  | cons i l ih => exact ih (Memory.wf_setBit h i (f i))

/-- Steps 2 to 7 (R200). -/
theorem scanRun_eq (ir : Bool) (goal : Tap) (hasOut hasIn : Bool) (n : Nat) (s : State) :
    scanRun ir goal hasOut hasIn n s =
      { s with
        chan := s.chan ++ scanCycles ir goal hasOut n s ++ [.read (scanLength ir n goal s.tapState)]
        txBitCount := BitVec.ofNat 32 ((scanPre ir s.tapState).length + (scanPost ir n goal s.tapState).length)
        tapState := scanEnd ir n goal s.tapState
        rx := s.rx.writeList 0 (responses s.adapterIn s.drawn (scanLength ir n goal s.tapState))
        inp :=
          if hasIn then (List.range n).foldl
            (fun m i => m.setBit i (((s.rx.writeList 0
              (responses s.adapterIn s.drawn (scanLength ir n goal s.tapState))).read
                (i + (scanPre ir s.tapState).length)).getLsbD 7)) s.inp
          else s.inp
        physSet := physRun s.physSet (scanTms ir goal n s.tapState)
        chanMisaligned := s.chanMisaligned || s.adapterPending != 0
        countMisaligned := s.countMisaligned || s.adapterPending != 0
        adapterIn := s.adapterIn.drop (scanLength ir n goal s.tapState)
        drawn := s.drawn + (scanLength ir n goal s.tapState - s.adapterIn.length) } := by
  have hp := scanPre_length_le ir s.tapState
  have hpre : (scanPreamble ir (setBitCount 0 s)).txBitCount.toNat = (scanPre ir s.tapState).length := by
    rw [scanPreamble_eq]
    show ((0 : BitVec 32) + BitVec.ofNat 32 (scanPre ir s.tapState).length).toNat = _
    rw [show (0 : BitVec 32) + BitVec.ofNat 32 (scanPre ir s.tapState).length =
      BitVec.ofNat 32 (scanPre ir s.tapState).length from BitVec.zero_add _, BitVec.toNat_ofNat]
    exact Nat.mod_eq_of_lt (by omega)
  have hc : cycleCount ((scanSent ir goal hasOut n s).chan.drop s.chan.length) =
      scanLength ir n goal s.tapState := by
    simp only [scanSent, List.drop_left, cycleCount_scanCycles]
  simp only [scanRun, scan_sent_eq, hpre, hc]
  rw [scanReceive_sent, scanExtract_eq]
  rfl

end Sys2Proof.Machine
end

