-- ==== Sys2Proof/Laws/Closed.lean ====
section
/-! SUPPORT. One induction over the commands, packaged once: a property of states that the primitives keep, every
command keeps, and how a command ends (60_exceptions R230). -/

namespace Sys2Proof.Machine

open Sys2Proof.Stated

/-- A property the primitives of a command's steps keep (00_scope R10). -/
structure Closed (P : State → Prop) : Prop where
  emit : ∀ t s, P s → P (emit t s)
  afterRead : ∀ n s, P s → P (afterRead n s)
  setScanFormat : ∀ f s, P s → P (setScanFormat f s)
  setWantResult : ∀ b s, P s → P (setWantResult b s)
  setBitCount : ∀ n s, P s → P (setBitCount n s)
  setTapState : ∀ t s, P s → P (setTapState t s)
  setInitialized : ∀ s, P s → P (setInitialized s)
  clearPending : ∀ s, P s → P (clearPending s)

/-- The steps of a command end in a state with the property, or took one fault in such a state (60_exceptions R236). -/
def Run.Holds (P : State → Prop) : Run → Prop
  | .done s => P s
  | .stopped t c =>
    ∃ s k, (c = .faultZbsRange ∨ c = .faultNzbsRange) ∧ t = logEntry c k (setFault c s) ∧ P s

theorem Run.Holds.andThen {P : State → Prop} {r : Run} {f : State → Run} (h : r.Holds P)
    (hf : ∀ s, P s → (f s).Holds P) : (r.andThen f).Holds P := by
  cases r with
  | done s => exact hf s h
  | stopped s c => exact h

theorem Run.Holds.andDo {P : State → Prop} {r : Run} {f : State → State} (h : r.Holds P)
    (hf : ∀ s, P s → P (f s)) : (r.andDo f).Holds P := h.andThen hf

/-- How a command run from `s` ends (60_exceptions R230): completed in a state with the property, rejected with
nothing done, or stopped at a fault. -/
inductive Ended (P : State → Prop) (i : Instr) (s : State) : State → Prop where
  | completed (u : State) : P u → Ended P i s (endCommand .ok (resultValue i .ok s) u)
  | rejected (c : ResultCode) (k : Nat) : c.kind = .rejected → Ended P i s (reject c k s)
  | faulted (u : State) (c : ResultCode) (k : Nat) : c = .faultZbsRange ∨ c = .faultNzbsRange → P u →
    Ended P i s (endCommand c false (logEntry c k (setFault c u)))

theorem Run.Holds.finish {P : State → Prop} {r : Run} {i : Instr} {s : State} {v : Bool} (h : r.Holds P)
    (hv : v = resultValue i .ok s) : Ended P i s (r.finish v) := by
  subst hv
  cases r with
  | done u => exact .completed u h
  | stopped t c =>
    obtain ⟨u, k, hc, rfl, hu⟩ := h
    exact .faulted u c k hc hu

namespace Closed

variable {P : State → Prop} (hP : Closed P)
include hP

theorem transitionsImmediate (str : TmsString) {s : State} (h : P s) : P (transitionsImmediate str s) := by
  unfold Machine.transitionsImmediate
  induction str.syms generalizing s with
  | nil => exact h
  | cons t syms ih => exact ih (hP.setBitCount _ _ (hP.afterRead _ _ (hP.emit _ _ h)))

theorem transitionsDeferred (str : TmsString) {s : State} (h : P s) : P (transitionsDeferred str s) := by
  unfold Machine.transitionsDeferred
  induction str.syms generalizing s with
  | nil => exact h
  | cons t syms ih => exact ih (hP.setBitCount _ _ (hP.emit _ _ h))

theorem tapMove (goal : Tap) {s : State} (h : P s) : P (tapMove goal s) := by
  unfold Machine.tapMove
  split
  · exact hP.setTapState _ _ (hP.transitionsDeferred _ h)
  · exact h

theorem formatSwitch (f : ScanFormat) {s : State} (h : P s) : P (formatSwitch f s) := by
  unfold Machine.formatSwitch
  split
  · exact h
  · exact hP.setScanFormat _ _ (hP.emit _ _ h)

theorem checkPacket {s : State} (h : P s) : P (checkPacket s) := by
  unfold Machine.checkPacket
  refine hP.emit _ _ ?_
  split
  · exact hP.transitionsImmediate _ h
  · exact h

theorem zeroBitScan (r : Nat) {s : State} (h : P s) : (zeroBitScan r s).Holds P := by
  unfold Machine.zeroBitScan
  split
  · exact ⟨s, r, .inl rfl, rfl, h⟩
  · exact hP.transitionsImmediate _ h

theorem nonZeroBitScan (a : Nat) {s : State} (h : P s) : (nonZeroBitScan a s).Holds P := by
  unfold Machine.nonZeroBitScan
  split
  · exact ⟨s, a, .inr rfl, rfl, h⟩
  · exact hP.transitionsImmediate _ h

theorem enterControlMode (l : Nat) {s : State} (h : P s) : (enterControlMode l s).Holds P :=
  ((hP.zeroBitScan l h).andThen fun _ h => hP.nonZeroBitScan 1 h).andDo fun _ h => hP.transitionsImmediate _ h

theorem twoPart (o p : Nat) {s : State} (h : P s) : (twoPart o p s).Holds P := by
  refine ((hP.nonZeroBitScan o h).andThen fun _ h => hP.nonZeroBitScan p h).andDo fun s h => ?_
  split
  · exact hP.checkPacket h
  · exact h

theorem enterOscan1 {s : State} (h : P s) : (enterOscan1 s).Holds P := by
  refine ((hP.twoPart _ _ h).andDo fun _ h => hP.checkPacket h).andDo fun s h => ?_
  split
  · exact hP.formatSwitch _ h
  · exact hP.setScanFormat _ _ h

theorem enterTwoWire {toIdle : State → Run} (hi : ∀ s, P s → (toIdle s).Holds P) {s : State} (h : P s) :
    (enterTwoWire toIdle s).Holds P := by
  refine (((((hi _ (hP.setWantResult _ _ h)).andThen fun _ h => hP.enterControlMode 2 h).andThen
    fun _ h => hP.enterOscan1 h).andThen fun _ h => hP.twoPart _ _ h).andDo fun t h => ?_).andDo
    fun _ h => hP.setWantResult _ _ h
  split
  · exact hP.transitionsImmediate _ h
  · exact h

theorem forceIdle {s : State} (h : P s) : P (forceIdle s) :=
  hP.setTapState _ _ (hP.transitionsImmediate _ h)

theorem setToIdle {s : State} (h : P s) : (setToIdle s).Holds P := by
  unfold Machine.setToIdle recoverTwoWire
  split
  · exact hP.forceIdle h
  · exact hP.enterTwoWire (toIdle := fun t => .done (Machine.forceIdle t)) (fun _ h => hP.forceIdle h) (hP.forceIdle (hP.formatSwitch _ (hP.forceIdle h)))

theorem enterTwoWireAndTest {s : State} (h : P s) : (enterTwoWireAndTest s).Holds P :=
  ((((hP.setToIdle (hP.setWantResult _ _ h)).andThen fun _ h => hP.enterControlMode 2 h).andThen
    fun _ h => hP.enterOscan1 h).andDo fun _ h => hP.transitionsImmediate _ h).andDo
    fun _ h => hP.setWantResult _ _ h

theorem initialise {s : State} (h : P s) : (initialise s).Holds P :=
  ((hP.setToIdle (hP.emit _ _ (hP.afterRead _ _ (hP.emit _ _ (hP.setBitCount _ _
    (hP.setWantResult _ _ (hP.setScanFormat _ _ h))))))).andThen fun _ h => hP.enterTwoWireAndTest h).andDo
    fun _ h => hP.clearPending _ (hP.setInitialized _ h)

/-- Every command answers a next state: its end keeps the property. -/
theorem exec (i : Instr) {s : State} (h : P s)
    (hscan : ∀ ir goal ho hi nf n, i = .scan ir goal ho hi nf n → n ≤ 992 → P (scanRun ir goal ho hi n s)) :
    ∃ t, exec i s = .next t ∧ Ended P i s t := by
  cases i with
  | init => exact ⟨_, rfl, (hP.initialise h).finish rfl⟩
  | scan ir endState hasOut hasIn numFields bitCount =>
    refine ⟨_, rfl, ?_⟩
    split
    · exact .rejected _ _ rfl
    · split
      · exact .rejected _ _ rfl
      · rename_i hn
        refine .completed _ (hscan _ _ _ _ _ _ rfl ?_)
        simp only [Config.maxPreamble, Config.maxPostamble, Config.rxCapacity] at hn
        omega
  | pininit => exact ⟨_, rfl, .completed _ (hP.afterRead _ _ (hP.emit _ _ h))⟩
  | escape => exact ⟨_, rfl, .completed _ (hP.emit _ _ h)⟩
  | cycle tms tdi => exact ⟨_, rfl, .completed _ (hP.emit _ _ h)⟩
  | fmtsw target => exact ⟨_, rfl, .completed _ (hP.formatSwitch _ h)⟩
  | check => exact ⟨_, rfl, .completed _ (hP.checkPacket h)⟩
  | zbs repeats => exact ⟨_, rfl, (hP.zeroBitScan _ h).finish rfl⟩
  | nzbs amount => exact ⟨_, rfl, (hP.nonZeroBitScan _ h).finish rfl⟩
  | ecm level => exact ⟨_, rfl, (hP.enterControlMode _ h).finish rfl⟩
  | twopart opcode operand => exact ⟨_, rfl, (hP.twoPart _ _ h).finish rfl⟩
  | wantres value => exact ⟨_, rfl, .completed _ (hP.setWantResult _ _ h)⟩
  | setidle => exact ⟨_, rfl, (hP.setToIdle h).finish rfl⟩
  | e2wtest => exact ⟨_, rfl, (hP.enterTwoWireAndTest h).finish rfl⟩
  | e2w => exact ⟨_, rfl, (hP.enterTwoWire (fun _ h => hP.setToIdle h) h).finish rfl⟩
  | oscan1 => exact ⟨_, rfl, (hP.enterOscan1 h).finish rfl⟩
  | tapmove goal => exact ⟨_, rfl, .completed _ (hP.tapMove _ h)⟩
  | trans len =>
    refine ⟨_, rfl, ?_⟩
    split
    · exact .rejected _ _ rfl
    · exact .completed _ (hP.transitionsImmediate _ h)
  | settap state => exact ⟨_, rfl, .completed _ (hP.setTapState _ _ h)⟩

end Closed

end Sys2Proof.Machine
end

