-- ==== Sys2Proof/Laws/PerInstr.lean ====
section
/-! SUPPORT. Facts about every instruction as syntax, one lemma per constructor. -/

namespace Sys2Proof.Laws.FitsWord

open Sys2Proof

/-- A well-formed instruction's encoding is a command word with a legal opcode (30_encoding R80, R83, R84). -/
def Statement (i : Instr) : Prop := i.WellFormed → encodeNat i < 2 ^ 32 ∧ encodeNat i % 32 < 0x13

theorem tap_code_lt (t : Tap) : t.code < 16 := by cases t <;> decide
theorem format_code_lt (f : ScanFormat) : f.code < 2 := by cases f <;> decide
theorem bool_toNat_lt (b : Bool) : b.toNat < 2 := by cases b <;> decide

theorem init : Statement (.init) := by
  intro _; decide

theorem scan (ir : Bool) (e : Tap) (ho hi : Bool) (nf n : Nat) : Statement (.scan ir e ho hi nf n) := by
  intro h
  simp only [Instr.WellFormed, Instr.wellFormed, Bool.and_eq_true, decide_eq_true_eq] at h
  have h1 := bool_toNat_lt ir
  have h2 := tap_code_lt e
  have h3 := bool_toNat_lt ho
  have h4 := bool_toNat_lt hi
  simp only [encodeNat]
  omega

theorem pininit : Statement (.pininit) := by
  intro _; decide

theorem escape : Statement (.escape) := by
  intro _; decide

theorem cycle (a b : Bool) : Statement (.cycle a b) := by
  intro _
  have h0 := bool_toNat_lt a
  have h1 := bool_toNat_lt b
  simp only [encodeNat]
  omega

theorem fmtsw (f : ScanFormat) : Statement (.fmtsw f) := by
  intro _
  have h0 := format_code_lt f
  simp only [encodeNat]
  omega

theorem check : Statement (.check) := by
  intro _; decide

theorem zbs (r : Nat) : Statement (.zbs r) := by
  intro h
  simp only [Instr.WellFormed, Instr.wellFormed, decide_eq_true_eq] at h
  simp only [encodeNat]
  omega

theorem nzbs (a : Nat) : Statement (.nzbs a) := by
  intro h
  simp only [Instr.WellFormed, Instr.wellFormed, decide_eq_true_eq] at h
  simp only [encodeNat]
  omega

theorem ecm (l : Nat) : Statement (.ecm l) := by
  intro h
  simp only [Instr.WellFormed, Instr.wellFormed, decide_eq_true_eq] at h
  simp only [encodeNat]
  omega

theorem twopart (o p : Nat) : Statement (.twopart o p) := by
  intro h
  simp only [Instr.WellFormed, Instr.wellFormed, Bool.and_eq_true, decide_eq_true_eq] at h
  simp only [encodeNat]
  omega

theorem wantres (v : Bool) : Statement (.wantres v) := by
  intro _
  have h0 := bool_toNat_lt v
  simp only [encodeNat]
  omega

theorem setidle : Statement (.setidle) := by
  intro _; decide

theorem e2wtest : Statement (.e2wtest) := by
  intro _; decide

theorem e2w : Statement (.e2w) := by
  intro _; decide

theorem oscan1 : Statement (.oscan1) := by
  intro _; decide

theorem tapmove (g : Tap) : Statement (.tapmove g) := by
  intro _
  have h0 := tap_code_lt g
  simp only [encodeNat]
  omega

theorem trans (n : Nat) : Statement (.trans n) := by
  intro h
  have h : n ≤ 1023 := of_decide_eq_true h
  simp only [encodeNat]
  omega

theorem settap (t : Tap) : Statement (.settap t) := by
  intro _
  have h0 := tap_code_lt t
  simp only [encodeNat]
  omega

end Sys2Proof.Laws.FitsWord
end

