-- ==== Sys2Proof/Laws/Related.lean ====
section
/-! SUPPORT. Two runs side by side: a relation of states that the primitives keep, and under which two states decide
the same branches, every command keeps. For statements that some state does not influence the rest. -/

namespace Sys2Proof.Machine

open Sys2Proof.Stated

/-- A relation the primitives of a command's steps keep (00_scope R10). Related states take the same branches: they
agree on what the commands test. -/
structure Closed2 (R : State → State → Prop) : Prop where
  scanFormat : ∀ {s t}, R s t → s.scanFormat = t.scanFormat
  tapState : ∀ {s t}, R s t → s.tapState = t.tapState
  str : ∀ {s t}, R s t → s.str = t.str
  params : ∀ {s t}, R s t → s.params = t.params
  emit : ∀ k {s t}, (∀ f w a b, k ≠ .cyc f w a b) → R s t → R (emit k s) (emit k t)
  emitCycle : ∀ a b {s t}, R s t → R (emitCycle a b s) (emitCycle a b t)
  afterRead : ∀ n {s t}, R s t → R (afterRead n s) (afterRead n t)
  setScanFormat : ∀ f {s t}, R s t → R (setScanFormat f s) (setScanFormat f t)
  setWantResult : ∀ b {s t}, R s t → R (setWantResult b s) (setWantResult b t)
  restore : ∀ {s t u v}, R s t → R u v → R (Machine.setWantResult s.wantResult u) (Machine.setWantResult t.wantResult v)
  clearBitCount : ∀ {s t}, R s t → R (setBitCount 0 s) (setBitCount 0 t)
  countBit : ∀ {s t}, R s t → R (countBit s) (countBit t)
  setTapState : ∀ k {s t}, R s t → R (setTapState k s) (setTapState k t)
  setInitialized : ∀ {s t}, R s t → R (setInitialized s) (setInitialized t)
  clearPending : ∀ {s t}, R s t → R (clearPending s) (clearPending t)
  raise : ∀ c k {s t}, R s t → R (logEntry c k (setFault c s)) (logEntry c k (setFault c t))
  log : ∀ c k {s t}, R s t → R (logEntry c k s) (logEntry c k t)
  endCommand : ∀ c v {s t}, R s t → R (endCommand c v s) (endCommand c v t)

/-- Two runs end alike, in related states. -/
def Run.Related (R : State → State → Prop) : Run → Run → Prop
  | .done s, .done t => R s t
  | .stopped s c, .stopped t d => c = d ∧ R s t
  | _, _ => False

theorem Run.Related.andThen {R : State → State → Prop} {p q : Run} {f g : State → Run} (h : p.Related R q)
    (hf : ∀ s t, R s t → (f s).Related R (g t)) : (p.andThen f).Related R (q.andThen g) := by
  cases p <;> cases q
  · exact hf _ _ h
  · exact h.elim
  · exact h.elim
  · exact h

theorem Run.Related.andDo {R : State → State → Prop} {p q : Run} {f g : State → State} (h : p.Related R q)
    (hf : ∀ s t, R s t → R (f s) (g t)) : (p.andDo f).Related R (q.andDo g) := h.andThen hf

namespace Closed2

variable {R : State → State → Prop} (hR : Closed2 R)
include hR

theorem transitionsImmediate (str : TmsString) {s t : State} (h : R s t) :
    R (transitionsImmediate str s) (transitionsImmediate str t) := by
  unfold Machine.transitionsImmediate
  induction str.syms generalizing s t with
  | nil => exact h
  | cons b syms ih => exact ih (hR.countBit (hR.afterRead 1 (hR.emitCycle b false h)))

theorem transitionsDeferred (str : TmsString) {s t : State} (h : R s t) :
    R (transitionsDeferred str s) (transitionsDeferred str t) := by
  unfold Machine.transitionsDeferred
  induction str.syms generalizing s t with
  | nil => exact h
  | cons b syms ih => exact ih (hR.countBit (hR.emitCycle b false h))

theorem tapMove (goal : Tap) {s t : State} (h : R s t) : R (tapMove goal s) (tapMove goal t) := by
  unfold Machine.tapMove
  rw [hR.tapState h]
  split
  · exact hR.setTapState _ (hR.transitionsDeferred _ h)
  · exact h

theorem formatSwitch (f : ScanFormat) {s t : State} (h : R s t) : R (formatSwitch f s) (formatSwitch f t) := by
  unfold Machine.formatSwitch
  rw [hR.scanFormat h]
  split
  · exact h
  · exact hR.setScanFormat _ (hR.emit _ (by intros; exact nofun) h)

theorem checkPacket {s t : State} (h : R s t) : R (checkPacket s) (checkPacket t) := by
  have hd : R (if s.scanFormat = .oscan1 then Machine.transitionsImmediate dummyStr s else s)
      (if t.scanFormat = .oscan1 then Machine.transitionsImmediate dummyStr t else t) := by
    rw [hR.scanFormat h]
    split
    · exact hR.transitionsImmediate _ h
    · exact h
  unfold Machine.checkPacket
  simp only [hR.scanFormat hd]
  exact hR.emit _ (by intros; exact nofun) hd

theorem raiseFault (c : ResultCode) (k : Nat) {s t : State} (h : R s t) :
    (raiseFault c k s).Related R (raiseFault c k t) := ⟨rfl, hR.raise c k h⟩

theorem zeroBitScan (r : Nat) {s t : State} (h : R s t) : (zeroBitScan r s).Related R (zeroBitScan r t) := by
  unfold Machine.zeroBitScan
  split
  · exact hR.raiseFault _ _ h
  · exact hR.transitionsImmediate _ h

theorem nonZeroBitScan (a : Nat) {s t : State} (h : R s t) :
    (nonZeroBitScan a s).Related R (nonZeroBitScan a t) := by
  unfold Machine.nonZeroBitScan
  split
  · exact hR.raiseFault _ _ h
  · exact hR.transitionsImmediate _ h

theorem enterControlMode (l : Nat) {s t : State} (h : R s t) :
    (enterControlMode l s).Related R (enterControlMode l t) :=
  ((hR.zeroBitScan l h).andThen fun _ _ h => hR.nonZeroBitScan 1 h).andDo fun _ _ h => hR.transitionsImmediate _ h

theorem twoPart (o p : Nat) {s t : State} (h : R s t) : (twoPart o p s).Related R (twoPart o p t) := by
  refine ((hR.nonZeroBitScan o h).andThen fun _ _ h => hR.nonZeroBitScan p h).andDo fun s t h => ?_
  rw [hR.scanFormat h]
  split
  · exact hR.checkPacket h
  · exact h

theorem enterOscan1 {s t : State} (h : R s t) : (enterOscan1 s).Related R (enterOscan1 t) := by
  unfold Machine.enterOscan1
  rw [hR.params h]
  refine ((hR.twoPart _ _ h).andDo fun _ _ h => hR.checkPacket h).andDo fun s t h => ?_
  rw [hR.params h]
  split
  · exact hR.formatSwitch _ h
  · exact hR.setScanFormat _ h

theorem enterTwoWire {toIdle : State → Run} (hi : ∀ s t, R s t → (toIdle s).Related R (toIdle t)) {s t : State}
    (h : R s t) : (enterTwoWire toIdle s).Related R (enterTwoWire toIdle t) := by
  refine (((((hi _ _ (hR.setWantResult _ h)).andThen fun _ _ h => hR.enterControlMode 2 h).andThen
    fun _ _ h => hR.enterOscan1 h).andThen fun s t h => ?_).andDo fun s t h => ?_).andDo
    fun _ _ h' => hR.restore h h'
  · rw [hR.params h]
    exact hR.twoPart _ _ h
  · rw [hR.params h]
    split
    · exact hR.transitionsImmediate _ h
    · exact h

theorem forceIdle {s t : State} (h : R s t) : R (forceIdle s) (forceIdle t) :=
  hR.setTapState _ (hR.transitionsImmediate _ h)

theorem setToIdle {s t : State} (h : R s t) : (setToIdle s).Related R (setToIdle t) := by
  have hf := hR.forceIdle h
  unfold Machine.setToIdle recoverTwoWire
  rw [hR.scanFormat hf]
  split
  · exact hf
  · exact hR.enterTwoWire (toIdle := fun t => .done (Machine.forceIdle t)) (fun _ _ h => hR.forceIdle h)
      (hR.forceIdle (hR.formatSwitch _ hf))

theorem enterTwoWireAndTest {s t : State} (h : R s t) :
    (enterTwoWireAndTest s).Related R (enterTwoWireAndTest t) :=
  ((((hR.setToIdle (hR.setWantResult _ h)).andThen fun _ _ h => hR.enterControlMode 2 h).andThen
    fun _ _ h => hR.enterOscan1 h).andDo fun _ _ h => hR.transitionsImmediate _ h).andDo
    fun _ _ h' => hR.restore h h'

theorem initialise {s t : State} (h : R s t) : (initialise s).Related R (initialise t) :=
  ((hR.setToIdle (hR.emit _ (by intros; exact nofun) (hR.afterRead _ (hR.emit _ (by intros; exact nofun)
    (hR.clearBitCount (hR.setWantResult _ (hR.setScanFormat _ h))))))).andThen
      fun _ _ h => hR.enterTwoWireAndTest h).andDo fun _ _ h => hR.clearPending (hR.setInitialized h)

theorem finish {p q : Run} (v : Bool) (h : p.Related R q) : R (p.finish v) (q.finish v) := by
  cases p <;> cases q
  · exact hR.endCommand _ _ h
  · exact h.elim
  · exact h.elim
  · obtain ⟨rfl, h⟩ := h
    exact hR.endCommand _ _ h

/-- Every command but `WANTRES`, whose result is the register it reads, keeps the relation. -/
theorem exec (i : Instr) {s t : State} (h : R s t) (hw : ∀ v, i = .wantres v → s.wantResult = t.wantResult)
    (hscan : ∀ ir goal ho hi nf n, i = .scan ir goal ho hi nf n → n ≤ 992 →
      R (scanRun ir goal ho hi n s) (scanRun ir goal ho hi n t)) :
    ∃ u v, exec i s = .next u ∧ exec i t = .next v ∧ R u v := by
  cases i with
  | init => exact ⟨_, _, rfl, rfl, hR.finish _ (hR.initialise h)⟩
  | scan ir endState hasOut hasIn numFields bitCount =>
    refine ⟨_, _, rfl, rfl, ?_⟩
    split
    · exact hR.endCommand _ _ (hR.log _ _ h)
    · split
      · exact hR.endCommand _ _ (hR.log _ _ h)
      · rename_i hn
        refine hR.endCommand _ _ (hscan _ _ _ _ _ _ rfl ?_)
        simp only [Config.maxPreamble, Config.maxPostamble, Config.rxCapacity] at hn
        omega
  | pininit => exact ⟨_, _, rfl, rfl, hR.endCommand _ _ (hR.afterRead _ (hR.emit _ (by intros; exact nofun) h))⟩
  | escape => exact ⟨_, _, rfl, rfl, hR.endCommand _ _ (hR.emit _ (by intros; exact nofun) h)⟩
  | cycle tms tdi => exact ⟨_, _, rfl, rfl, hR.endCommand _ _ (hR.emitCycle _ _ h)⟩
  | fmtsw target => exact ⟨_, _, rfl, rfl, hR.endCommand _ _ (hR.formatSwitch _ h)⟩
  | check => exact ⟨_, _, rfl, rfl, hR.endCommand _ _ (hR.checkPacket h)⟩
  | zbs repeats => exact ⟨_, _, rfl, rfl, hR.finish _ (hR.zeroBitScan _ h)⟩
  | nzbs amount => exact ⟨_, _, rfl, rfl, hR.finish _ (hR.nonZeroBitScan _ h)⟩
  | ecm level => exact ⟨_, _, rfl, rfl, hR.finish _ (hR.enterControlMode _ h)⟩
  | twopart opcode operand => exact ⟨_, _, rfl, rfl, hR.finish _ (hR.twoPart _ _ h)⟩
  | wantres value =>
    refine ⟨_, _, rfl, rfl, ?_⟩
    rw [hw value rfl]
    exact hR.endCommand _ _ (hR.setWantResult _ h)
  | setidle => exact ⟨_, _, rfl, rfl, hR.finish _ (hR.setToIdle h)⟩
  | e2wtest => exact ⟨_, _, rfl, rfl, hR.finish _ (hR.enterTwoWireAndTest h)⟩
  | e2w => exact ⟨_, _, rfl, rfl, hR.finish _ (hR.enterTwoWire (fun _ _ h => hR.setToIdle h) h)⟩
  | oscan1 => exact ⟨_, _, rfl, rfl, hR.finish _ (hR.enterOscan1 h)⟩
  | tapmove goal => exact ⟨_, _, rfl, rfl, hR.endCommand _ _ (hR.tapMove _ h)⟩
  | trans len =>
    have hb : readBytes .str 0 len s = readBytes .str 0 len t := by
      simp only [readBytes, readByte, State.space, hR.str h]
    refine ⟨_, _, rfl, rfl, ?_⟩
    rw [hb]
    split
    · exact hR.endCommand _ _ (hR.log _ _ h)
    · exact hR.endCommand _ _ (hR.transitionsImmediate _ h)
  | settap state => exact ⟨_, _, rfl, rfl, hR.endCommand _ _ (hR.setTapState _ h)⟩

end Closed2

end Sys2Proof.Machine
end

