-- ==== Sys2Proof/Machine/Assembler.lean ====
section
/-! DEFINITION. The assembler syntax (30_encoding R102) as the line each request prints as, and the
pseudo-instructions with their expansions (R103). -/

namespace Sys2Proof.Machine

/-- The name of a TAP state (30_encoding R87). -/
def tapName : Tap → String
  | .drExit2 => "DREXIT2" | .drExit1 => "DREXIT1" | .drShift => "DRSHIFT" | .drPause => "DRPAUSE"
  | .irSelect => "IRSELECT" | .drUpdate => "DRUPDATE" | .drCapture => "DRCAPTURE" | .drSelect => "DRSELECT"
  | .irExit2 => "IREXIT2" | .irExit1 => "IREXIT1" | .irShift => "IRSHIFT" | .irPause => "IRPAUSE"
  | .idle => "IDLE" | .irUpdate => "IRUPDATE" | .irCapture => "IRCAPTURE" | .reset => "RESET"

/-- The name of a scan format (R102). -/
def formatName : ScanFormat → String
  | .normal => "NORMAL"
  | .oscan1 => "OSCAN1"

/-- A Boolean operand as `0` or `1` (R102). -/
def bitName (b : Bool) : String := if b then "1" else "0"

/-- A hexadecimal digit. -/
def hexDigit (n : Nat) : Char := (Nat.digitChar n).toUpper

/-- The two hexadecimal digits of a byte. -/
def byteHex (b : Byte) : String := String.ofList [hexDigit (b.toNat / 16), hexDigit (b.toNat % 16)]

/-- Bytes from index 0 as one hexadecimal number: the byte at index 0 is the least significant (R102). -/
def bytesHex (bs : List Byte) : String := "0x" ++ String.join (bs.reverse.map byteHex)

/-- The character a TMS string's byte prints as (R89). -/
def tmsCharName : TmsChar → String
  | .zero => "0"
  | .one => "1"
  | .sep => "_"

/-- The bytes of `OUT` that a scan of `bitCount` bits reads (20_memory R60). -/
def outBytes (bitCount : Nat) (out : Memory) : List Byte :=
  (List.range ((bitCount + 7) / 8)).map fun k => out.read k

/-- The operands of a scan's line after `n=` and `end=` (R102): `out=` exactly when `has_out`, `in` exactly
when `has_in`, `fields=` when it is not the default 1. -/
def scanTail (hasOut hasIn : Bool) (numFields bitCount : Nat) (out : Memory) : String :=
  (if hasOut then ", out=" ++ bytesHex (outBytes bitCount out) else "")
    ++ (if hasIn then ", in" else "")
    ++ (if numFields = 1 then "" else ", fields=" ++ Nat.repr numFields)

/-- The line of an instruction whose buffers are `out` and `str` (R102). -/
def assemblyLine (out str : Memory) : Instr → String
  | .init => "INIT"
  | .scan ir e hasOut hasIn numFields bitCount =>
    (if ir then "SCAN.IR n=" else "SCAN.DR n=") ++ Nat.repr bitCount ++ ", end=" ++ tapName e
      ++ scanTail hasOut hasIn numFields bitCount out
  | .pininit => "PININIT"
  | .escape => "ESCAPE"
  | .cycle tms tdi => "CYCLE tms=" ++ bitName tms ++ ", tdi=" ++ bitName tdi
  | .fmtsw target => "FMTSW " ++ formatName target
  | .check => "CHECK"
  | .zbs r => "ZBS " ++ Nat.repr r
  | .nzbs a => "NZBS " ++ Nat.repr a
  | .ecm l => "ECM " ++ Nat.repr l
  | .twopart o p => "TWOPART " ++ Nat.repr o ++ ", " ++ Nat.repr p
  | .wantres v => "WANTRES " ++ bitName v
  | .setidle => "SETIDLE"
  | .e2wtest => "E2WTEST"
  | .e2w => "E2W"
  | .oscan1 => "OSCAN1"
  | .tapmove g => "TAPMOVE " ++ tapName g
  | .trans len =>
    "TRANS \"" ++ String.join ((tmsOfBytes ((List.range len).map fun k => str.read k)).map tmsCharName) ++ "\""
  | .settap t => "SETTAP " ++ tapName t

/-- The pseudo-instructions (R103). -/
inductive Pseudo where
  | stfmtOscan1
  | stmcExit
  | reconnect
  | tapresetIdle
  deriving DecidableEq, Repr

/-- A `TWOPART` whose operands an `F44` word can hold; the assembler refuses any other (R103). -/
def assembleTwoPart (opcode operand : Nat) : Option (Instr × TmsString) :=
  if opcode ≤ 15 ∧ operand ≤ 15 then some (.twopart opcode operand, []) else none

/-- A `TRANS` of a string without separators, and that string for the `STR` space. -/
def assembleTrans (str : TmsString) : Option (Instr × TmsString) := some (.trans str.length, str)

/-- The expansion of a pseudo-instruction: the command, and the string it needs on `STR` (R103). -/
def Pseudo.expand (params : Config.Params) : Pseudo → Option (Instr × TmsString)
  | .stfmtOscan1 => assembleTwoPart params.stfmt params.oscan1Param
  | .stmcExit => assembleTwoPart params.stmc params.exitCmdLvl
  | .reconnect => assembleTrans reconnectStr
  | .tapresetIdle => assembleTrans idleStr

/-- A TMS string as the host puts it on the `STR` space (R89). -/
def strSpace (s : TmsString) : Memory := Memory.ofBytes (s.map TmsChar.toByte)

end Sys2Proof.Machine
end

