-- ==== Sys2Proof/Tests/Slice0.lean ====
section
/-! SUPPORT. The model's own tests: ill-formed terms that `WellFormed` refuses, words written out bit by bit from
30_encoding R81 to R83, one step on small states with the results of the vectors of the spec (V1 to V88) or worked by
hand from its rules, and for each obligation a state and operands that meet its hypotheses. -/

namespace Sys2Proof.Tests

open Sys2Proof Sys2Proof.Machine Sys2Proof.Stated

/-! ## Well-formedness: each check refuses a term -/

theorem test_illformed_scan_fields : ¬ (Instr.scan false .idle true true 16 32).WellFormed := by decide
theorem test_illformed_scan_bits : ¬ (Instr.scan false .idle true true 1 65536).WellFormed := by decide
theorem test_illformed_zbs : ¬ (Instr.zbs 16).WellFormed := by decide
theorem test_illformed_nzbs : ¬ (Instr.nzbs 16).WellFormed := by decide
theorem test_illformed_ecm : ¬ (Instr.ecm 16).WellFormed := by decide
theorem test_illformed_twopart_opcode : ¬ (Instr.twopart 16 0).WellFormed := by decide
theorem test_illformed_twopart_operand : ¬ (Instr.twopart 0 16).WellFormed := by decide
theorem test_illformed_trans : ¬ (Instr.trans 1024).WellFormed := by decide

/-! ## Decoding: words written out from R81 to R83, R87, R88 (fields from the top bit down) -/

theorem test_decode_init : decode 0b000000000000000000000000000_00000 = .ok .init := by decide
/-- 32 bits, 1 field, in, out, IDLE (1100), DR. -/
theorem test_decode_scan : decode 0b0000000000100000_0001_1_1_1100_0_00001 =
    .ok (.scan false .idle true true 1 32) := by decide
/-- V11: every field bit set. -/
theorem test_decode_scan_all_ones : decode 0b1111111111111111_1111_1_1_1111_1_00001 =
    .ok (.scan true .reset true true 15 65535) := by decide
/-- Only `out` set, then only `in`: the two bits are not swapped. -/
theorem test_decode_scan_out_in :
    decode 0b0000000000000001_0001_0_1_0011_0_00001 = .ok (.scan false .drPause true false 1 1) ∧
    decode 0b0000000000000001_0001_1_0_0011_0_00001 = .ok (.scan false .drPause false true 1 1) := by decide
theorem test_decode_pininit : decode 0b000000000000000000000000000_00010 = .ok .pininit := by decide
theorem test_decode_escape : decode 0b000000000000000000000000000_00011 = .ok .escape := by decide
/-- V14: TMS is bit 5, TDI is bit 6. -/
theorem test_decode_cycle : decode 0b0000000000000000000000000_0_1_00100 = .ok (.cycle true false) ∧
    decode 0b0000000000000000000000000_1_0_00100 = .ok (.cycle false true) := by decide
theorem test_decode_fmtsw : decode 0b00000000000000000000000000_1_00101 = .ok (.fmtsw .oscan1) ∧
    decode 0b00000000000000000000000000_0_00101 = .ok (.fmtsw .normal) := by decide
theorem test_decode_check : decode 0b000000000000000000000000000_00110 = .ok .check := by decide
theorem test_decode_zbs : decode 0b00000000000000000000000_1010_00111 = .ok (.zbs 10) := by decide
theorem test_decode_nzbs : decode 0b00000000000000000000000_0001_01000 = .ok (.nzbs 1) := by decide
theorem test_decode_ecm : decode 0b00000000000000000000000_0010_01001 = .ok (.ecm 2) := by decide
/-- V38: the opcode of the star-command is the lower field. -/
theorem test_decode_twopart : decode 0b0000000000000000000_1001_0011_01010 = .ok (.twopart 3 9) := by decide
theorem test_decode_wantres : decode 0b00000000000000000000000000_1_01011 = .ok (.wantres true) := by decide
theorem test_decode_setidle : decode 0b000000000000000000000000000_01100 = .ok .setidle := by decide
theorem test_decode_e2wtest : decode 0b000000000000000000000000000_01101 = .ok .e2wtest := by decide
theorem test_decode_e2w : decode 0b000000000000000000000000000_01110 = .ok .e2w := by decide
theorem test_decode_oscan1 : decode 0b000000000000000000000000000_01111 = .ok .oscan1 := by decide
/-- DRSHIFT is 0010. -/
theorem test_decode_tapmove : decode 0b00000000000000000000000_0010_10000 = .ok (.tapmove .drShift) := by decide
theorem test_decode_trans : decode 0b00000000000000000_1111111111_10001 = .ok (.trans 1023) := by decide
/-- IDLE is 1100. -/
theorem test_decode_settap : decode 0b00000000000000000000000_1100_10010 = .ok (.settap .idle) := by decide
/-- V1 to V5: reserved opcodes and reserved bits. -/
theorem test_decode_rejects :
    decode 0x00000013 = .error .reservedOpcode ∧ decode 0x0000001F = .error .reservedOpcode ∧
    decode 0x00000020 = .error .reservedBits ∧ decode 0x00000045 = .error .reservedBits ∧
    decode 0x00008011 = .error .reservedBits := by decide
/-- R87: the codes of the table, read in its order. -/
theorem test_tap_codes : Tap.all.map Tap.code = List.range 16 := by decide

/-- R102. -/
theorem test_assembly_line :
    assemblyLine (Memory.ofBytes [0xEF, 0xBE]) [] (.scan false .drPause true true 1 16) =
      "SCAN.DR n=16, end=DRPAUSE, out=0xBEEF, in" := by decide +kernel

/-! ## Small states -/

/-- Star-command opcodes and operands within range; the parameters are OPEN in the spec (R7). -/
def params0 : Config.Params := ⟨3, 0, 9, 1, true, false⟩

/-- Every parameter a bit-scan gets at its limit. -/
def paramsLimit : Config.Params := ⟨10, 10, 10, 10, true, true⟩

/-- Opcode and operand past the limit. -/
def paramsOver : Config.Params := ⟨11, 10, 10, 10, true, true⟩
def paramsOver2 : Config.Params := ⟨10, 10, 11, 10, true, true⟩

/-- An initialised, TAP-synchronised block whose `tx_bit_count` is 100. -/
def live (fmt : ScanFormat) (wr : Bool) (tap : Tap) (p : Config.Params := params0) : State :=
  { State.blockReset fmt wr 100 tap [] p with initialized := true, physSet := [tap] }

/-- The state after one step on a command word, with the buffers the state holds. -/
def after (s : State) (w : Nat) : Option State :=
  match step (s.withFetchWord 32 w) with
  | .next t => some t
  | .fault _ => none
  | .refused _ => none

/-- The state after one command. -/
def ran (s : State) (i : Instr) : Option State :=
  match exec i s with
  | .next t => some t
  | .fault _ => none
  | .refused _ => none

/-- `STR` holding ASCII text. -/
def text (bs : List Byte) (s : State) : State := { s with str := Memory.ofBytes bs }

/-! ## One step: the vectors -/

/-- V1. -/
theorem test_reserved_opcode : (after (live .normal false .idle) 0x13).map (fun t => (t.log, t.results, t.chan)) =
    some ([⟨.rejIllegalCmd, 0x13⟩], [⟨.rejIllegalCmd, false⟩], []) := by decide
/-- V3: `INIT` with bit 5 set does not run. -/
theorem test_reserved_bit : (after (live .normal false .idle) 0x20).map (fun t => (t.log, t.chan)) =
    some ([⟨.rejIllegalCmd, 0x20⟩], []) := by decide
/-- V6, V7: before `INIT` a scan is refused, and illegality is checked first. -/
theorem test_uninit : (after State.reset 0x00201F01).map (fun t => (t.results, t.log)) =
      some ([⟨.refusedUninit, false⟩], []) ∧
    (after State.reset 0x13).map (fun t => t.results) = some [⟨.rejIllegalCmd, false⟩] := by decide
/-- V9, V10: the fault check comes first. -/
theorem test_faulted :
    (after { live .normal false .idle with fault := 0x10 } 0).map (fun t => (t.results, t.chan)) =
      some ([⟨.refusedFaulted, false⟩], []) ∧
    (after { live .normal false .idle with fault := 0x10 } 0x13).map (fun t => t.results) =
      some [⟨.refusedFaulted, false⟩] := by decide

/-- V12. -/
theorem test_pininit : (after (live .normal false .idle) 0x02).map (fun t => (t.chan, t.physSet, t.adapterPending)) =
    some ([.write .pinInit, .read 1], Tap.all, 0) := by decide
/-- V13. -/
theorem test_escape : (after (live .normal false .idle) 0x03).map (fun t => (t.chan, t.physSet)) =
    some ([.write .esc], Tap.all) := by decide
/-- V14. -/
theorem test_cycle : (after (live .oscan1 true .idle) 0x24).map
      (fun t => (t.chan, t.txBitCount, t.tapState, t.physSet, t.adapterPending)) =
    some ([.write (.cyc .oscan1 true true false)], 100, .idle, [.drSelect], 1) := by decide
/-- R266: the byte a `CYCLE` leaves pending is returned by the read of the next `ZBS 0`, and a byte stays pending; that
read sets `chan_misaligned`, which R41's own clauses would not. -/
theorem test_cycle_misaligns : ((after (live .oscan1 true .idle) 0x24).bind fun t => after t 0x07).map
      (fun t => (t.adapterPending, t.chanMisaligned, t.countMisaligned)) = some (1, true, false) := by decide
/-- V16, V17, V18. -/
theorem test_fmtsw :
    (after (live .oscan1 true .idle) 0x05).map (fun t => (t.chan, t.scanFormat)) =
      some ([.write (.fsw .normal)], .normal) ∧
    (after (live .normal true .idle) 0x05).map (fun t => (t.chan, t.scanFormat)) = some ([], .normal) := by decide
/-- V19, V20. -/
theorem test_check :
    (after (live .normal true .idle) 0x06).map (fun t => (t.chan, t.txBitCount)) =
      some ([.write (.chk .normal)], 100) ∧
    (after (live .oscan1 true .idle) 0x06).map (fun t => (t.chan, t.txBitCount)) =
      some ([.write (.cyc .oscan1 true false false), .read 1, .write (.chk .oscan1)], 101) := by decide

/-- V21: "1100110". -/
theorem test_trans : (after (text [0x31, 0x31, 0x30, 0x30, 0x31, 0x31, 0x30] (live .normal true .idle)) 0xF1).map
      (fun t => (t.txBitCount, t.physSet, t.chan.length)) = some (107, [.idle], 14) := by decide
/-- V24: "10_2". -/
theorem test_trans_bad : (after (text [0x31, 0x30, 0x5F, 0x32] (live .normal true .idle)) 0x91).map
      (fun t => (t.log, t.chan)) = some ([⟨.rejBadTmsString, 3⟩], []) := by decide
/-- V27: 1, 0, 1, 1, 0. -/
theorem test_zbs : (after (live .normal false .idle) 0x27).map (fun t => (t.chan.filter ChanEvent.isCycle)) =
    some ([true, false, true, true, false].map fun b => .write (.cyc .normal false b false)) := by decide
/-- V30. -/
theorem test_zbs_range : (after (live .normal false .idle) 0x167).map (fun t => (t.fault, t.log, t.chan)) =
    some (0x10, [⟨.faultZbsRange, 11⟩], []) := by decide
/-- V33: 1, 0, 0, 1, 1, 0. -/
theorem test_nzbs : (after (live .normal false .idle) 0x28).map (fun t => (t.chan.filter ChanEvent.isCycle)) =
    some ([true, false, false, true, true, false].map fun b => .write (.cyc .normal false b false)) := by decide
/-- V35. -/
theorem test_nzbs_range : (after (live .normal false .idle) 0x168).map (fun t => (t.fault, t.log, t.chan)) =
    some (0x11, [⟨.faultNzbsRange, 11⟩], []) := by decide
/-- V36. -/
theorem test_ecm : (after (live .normal false .idle) 0x49).map (fun t => (t.txBitCount, t.physSet)) =
    some (118, [.idle]) := by decide
/-- V37. -/
theorem test_ecm_range : (after (live .normal false .idle) 0x169).map (fun t => (t.fault, t.log, t.chan)) =
    some (0x10, [⟨.faultZbsRange, 11⟩], []) := by decide
/-- V38, V39. -/
theorem test_twopart :
    (after (live .normal false .idle) 0x126A).map (fun t => t.txBitCount) = some 122 ∧
    (after (live .oscan1 false .idle) 0x126A).map (fun t => t.txBitCount) = some 123 := by decide
/-- V39a. -/
theorem test_twopart_range : (after (live .normal false .idle) 0x166A).map (fun t => (t.txBitCount, t.fault, t.log)) =
    some (108, 0x11, [⟨.faultNzbsRange, 11⟩]) := by decide

/-- V54, V55. -/
theorem test_wantres :
    (after (live .normal true .idle) 0x0B).map (fun t => (t.results, t.wantResult)) = some ([⟨.ok, true⟩], false) ∧
    (after (live .normal false .idle) 0x2B).map (fun t => (t.results, t.wantResult)) =
      some ([⟨.ok, false⟩], true) := by decide
/-- V57. -/
theorem test_setidle_normal : (after (live .normal true .drExit2) 0x0C).map
      (fun t => (t.tapState, t.txBitCount, t.physSet)) = some (.idle, 107, [.idle]) := by decide
/-- V58 with s = 3, p = 9, m = 0, e = 1. -/
theorem test_setidle_oscan1 : (after (live .oscan1 true .drExit2) 0x0C).map
      (fun t => (t.scanFormat, t.wantResult, t.tapState, t.txBitCount, t.physSet)) =
    some (.oscan1, true, .idle, 173, [.idle]) := by decide +kernel
/-- V58: "`pend` and `mis` as before"; with a byte pending before it R266 sets `mis`. -/
theorem test_setidle_pending :
    ((after (live .oscan1 true .drExit2) 0x0C).map fun t => (t.adapterPending, t.chanMisaligned)) = some (0, false) ∧
    ((after { live .oscan1 true .drExit2 with adapterPending := 1 } 0x0C).map fun t =>
      (t.adapterPending, t.chanMisaligned)) = some (1, true) := by decide +kernel
/-- V59. -/
theorem test_oscan1 : (after (live .normal true .idle) 0x0F).map (fun t => (t.scanFormat, t.txBitCount)) =
    some (.oscan1, 122) := by decide +kernel
/-- V62. -/
theorem test_oscan1_range : (after (live .normal true .idle ⟨12, 0, 9, 1, true, false⟩) 0x0F).map
      (fun t => (t.scanFormat, t.fault, t.log, t.chan)) =
    some (.normal, 0x11, [⟨.faultNzbsRange, 12⟩], []) := by decide +kernel
/-- V63. -/
theorem test_e2wtest : (after (live .normal true .drExit2) 0x0D).map
      (fun t => (t.results, t.scanFormat, t.wantResult, t.tapState, t.txBitCount)) =
    some ([⟨.ok, true⟩], .oscan1, true, .idle, 154) := by decide +kernel
/-- V66. -/
theorem test_e2wtest_range : (after (live .normal true .drExit2 ⟨11, 0, 9, 1, true, false⟩) 0x0D).map
      (fun t => (t.wantResult, t.txBitCount, t.fault, t.tapState)) = some (false, 125, 0x11, .idle) := by decide +kernel
/-- V64, V65. -/
theorem test_e2w :
    (after (live .normal true .drExit2) 0x0E).map (fun t => (t.scanFormat, t.wantResult, t.txBitCount)) =
      some (.oscan1, true, 159) ∧
    (after (live .normal true .drExit2 ⟨3, 0, 9, 1, true, true⟩) 0x0E).map (fun t => t.txBitCount) =
      some 166 := by decide +kernel
/-- V67: from block reset; 42_mode R168 gives the bit count 49 + s + p. -/
theorem test_init : (after (State.blockReset .oscan1 false 7 .drExit2 [] params0) 0).map
      (fun t => ((t.initialized, t.scanFormat, t.wantResult), t.tapState, t.txBitCount, t.physSet)) =
    some ((true, .oscan1, true), .idle, 61, [.idle]) := by decide +kernel

/-- R168: from a state with bytes pending, none is pending after `INIT`; its reads set
`chan_misaligned` (R266), which R41's own clauses would not. -/
theorem test_init_pending :
    (after { State.blockReset .normal false 0 .idle [] params0 with adapterPending := 2 } 0).map
      (fun t => (t.adapterPending, t.chanMisaligned, t.countMisaligned)) = some (0, true, false) := by decide +kernel

/-- V40. -/
theorem test_tapmove : (after (live .normal true .idle) 0x50).map
      (fun t => (t.tapState, t.txBitCount, t.adapterPending, t.physSet)) =
    some (.drShift, 103, 3, [.drShift]) := by decide
/-- V52. -/
theorem test_tapmove_noop : (after (live .normal true .irExit1) 0x70).map (fun t => (t.tapState, t.chan)) =
    some (.irExit1, []) := by decide
/-- V8. -/
theorem test_settap : (after State.reset 0x192).map (fun t => (t.tapState, t.physSet, t.results)) =
    some (.idle, Tap.all, [⟨.ok, false⟩]) := by decide

/-- V75, with the response bits of the payload (bytes 6 to 10) 1, 0, 1, 1, 0: `IN` holds 0b01101. -/
theorem test_scan : (after { live .oscan1 true .drPause with
      adapterIn := List.replicate 6 0 ++ [0x80, 0x00, 0x80, 0x80, 0x7F] ++ List.replicate 2 0xFF } 0x51F21).map
      (fun t => (t.inp, t.tapState, t.txBitCount, t.chan.getLast?)) =
    some ([(0, 0b01101)], .idle, 8, some (.read 13)) := by decide +kernel
/-- V84: the field check comes first; V81: 993 bits. -/
theorem test_scan_rejects :
    (after (live .oscan1 true .idle) 0x03E12301).map (fun t => t.log) = some [⟨.rejMultiField, 2⟩] ∧
    (after (live .oscan1 true .idle) 0x03E11B01).map (fun t => t.log) = some [⟨.rejOversize, 993⟩] := by decide

/-! ## Witnesses: a state and operands that meet each obligation's hypotheses -/

/-- A request whose buffers are empty. -/
def request (w : Nat) : Request := ⟨tableWord 32 w, [], [], []⟩

/-- The block with one command waiting. -/
def waiting (w : Nat) (s : State) : State := { s with cmdPort := [request w] }

theorem witness_DecodeOfEncodeIsTheInstruction :
    (Instr.scan true .reset true true 15 65535).WellFormed ∧ (Instr.trans 1023).WellFormed ∧
    (Instr.twopart 15 15).WellFormed := by decide
theorem witness_EncodeOfDecodedIsTheWord : ∃ i, decode 0xFFFFFFE1 = .ok i := ⟨_, rfl⟩
theorem witness_DecoderAgreesWithOpcodeTable :
    decode 0xFFFFFFE1 = .ok (.scan true .reset true true 15 65535) ∧
    (⟨"SCAN", 0x00000001, 0x0000001F⟩ : OpcodeRow) ∈ opcodeTable ∧
    (0xFFFFFFE1 : CmdWord) &&& 0x0000001F = 0x00000001 := by decide
theorem witness_ReservedOpcodeIsRejected :
    (waiting 0x13 State.reset).cmdPort = [request 0x13] ∧ (waiting 0x13 State.reset).fault = 0 ∧
    0x13 ≤ (request 0x13).word.toNat % 32 ∧ 0x13 ≤ (request 0xFFFFFFFF).word.toNat % 32 := by decide
theorem witness_ReservedBitIsRejected :
    (waiting 0x20 State.reset).cmdPort = [request 0x20] ∧ (waiting 0x20 State.reset).fault = 0 ∧
    (⟨"INIT", 0x00000000, 0xFFFFFFFF⟩ : OpcodeRow) ∈ opcodeTable ∧
    (request 0x20).word.toNat % 32 = (0x00000000 : CmdWord).toNat % 32 ∧
    (request 0x20).word &&& 0xFFFFFFFF ≠ 0x00000000 := by decide
theorem witness_StepRunsTheDecodedCommand :
    (waiting 0x24 (live .normal true .idle)).cmdPort = [request 0x24] ∧
    (waiting 0x24 (live .normal true .idle)).fault = 0 ∧
    decode (request 0x24).word = .ok (.cycle true false) ∧
    (waiting 0x24 (live .normal true .idle)).initialized = true ∧
    decode (request 0x192).word = .ok (.settap .idle) ∧ decode (request 0).word = .ok .init := by decide
theorem witness_NoCommandLeavesTheState : State.reset.cmdPort = [] := rfl
theorem witness_AdmissionChecksInOrder :
    (waiting 0x13 State.reset).cmdPort = [request 0x13] ∧
    { live .normal true .idle with fault := 0x11 }.fault ≠ 0 ∧
    (∀ i, decode (request 0x13).word ≠ .ok i) ∧
    (decode (request 0x24).word = .ok (.cycle true false) ∧ State.reset.initialized = false ∧
      State.reset.fault = 0 ∧ Instr.cycle true false ≠ .init ∧ ∀ t, Instr.cycle true false ≠ .settap t) ∧
    (decode (request 0).word = .ok .init) :=
  ⟨rfl, by decide, by rw [show decode (request 0x13).word = .error .reservedOpcode by decide]; exact nofun,
    ⟨by decide, rfl, rfl, nofun, nofun⟩, by decide⟩
theorem witness_NothingRunsAfterAFault : { live .normal true .idle with fault := 0x11 }.fault ≠ 0 := by decide
/-- One command for each outcome: completed, rejected, faulted, refused. -/
theorem witness_EveryCommandEndsInOneOfFourOutcomes :
    (waiting 0x24 (live .normal true .idle)).cmdPort = [request 0x24] ∧
    [after (live .normal true .idle) 0x24, after (live .normal true .idle) 0x13,
      after (live .normal true .idle) 0x167, after State.reset 0x24].map
        (fun t => t.map fun t => t.results.map fun r => r.code.kind) =
      [some [.completed], some [.rejected], some [.faulted], some [.refused]] := by decide
theorem witness_BlockResetMeetsTheInvariant :
    Memory.wf [(0, 1), (999, 0xFF)] ∧ Memory.below 1000 [(0, 1), (999, 0xFF)] := by decide
theorem witness_StepKeepsTheInvariant :
    (waiting 0x00201F01 (live .oscan1 true .idle)).Inv ∧
    (after (live .oscan1 true .idle) 0x00201F01).isSome = true := ⟨by decide, by decide +kernel⟩
theorem witness_FormatSwitchIsIdempotent :
    (live .normal true .idle).scanFormat ≠ .oscan1 ∧ (live .normal true .idle).scanFormat = .normal := by decide
theorem witness_TransSendsItsString :
    ∀ k < 3, tmsByte (readByte .str k (text [0x31, 0x5F, 0x30] State.reset)) := by
  intro k hk
  interval_cases k
  · exact .inr (.inl (by decide))
  · exact .inr (.inr (by decide))
  · exact .inl (by decide)
theorem witness_TransRejectsABadString :
    ¬ tmsByte (readByte .str 1 (text [0x31, 0x20] State.reset)) ∧
    ∀ j < 1, tmsByte (readByte .str j (text [0x31, 0x20] State.reset)) := by
  refine ⟨?_, ?_⟩
  · unfold tmsByte
    decide
  · intro j hj
    interval_cases j
    exact .inr (.inl (by decide))
theorem witness_ZeroBitScanSendsItsString : 0 ≤ 10 ∧ 10 ≤ 10 := by decide
theorem witness_NonZeroBitScanSendsItsString : 0 ≤ 10 ∧ 10 ≤ 10 := by decide
theorem witness_BitScanCountAboveTenFaults : 10 < 11 ∧ 10 < 15 := by decide
theorem witness_EnterControlModeSendsItsParts : 0 ≤ 10 ∧ 10 ≤ 10 := by decide
theorem witness_TwoPartSendsItsParts : (0 ≤ 10 ∧ 10 ≤ 10) ∧ (10 ≤ 10 ∧ 0 ≤ 10) := by decide
theorem witness_TwoPartFaultsAfterItsFirstPart : 10 ≤ 10 ∧ 10 < 11 := by decide
theorem witness_EnterControlModeIsItsThreeCommands :
    10 ≤ 10 ∧ ∀ k < 3, readByte .str k (text [0x30, 0x30, 0x30] State.reset) = 0x30 := by decide
theorem witness_SetIdleForcesIdle :
    ((live .oscan1 true .idle paramsLimit).scanFormat = .oscan1 →
      ∀ n ∈ recoveryCounts (live .oscan1 true .idle paramsLimit).params, n ≤ 10) ∧
    (live .normal true .idle paramsOver).scanFormat ≠ .oscan1 := by decide
theorem witness_Oscan1SwitchesTheLink : paramsLimit.stfmt ≤ 10 ∧ paramsLimit.oscan1Param ≤ 10 := by decide
theorem witness_Oscan1FaultKeepsTheFormat :
    (10 < paramsOver.stfmt ∨ 10 < paramsOver.oscan1Param) ∧ (10 < paramsOver2.stfmt ∨ 10 < paramsOver2.oscan1Param) := by
  decide
theorem witness_TwoWireTestBringsUpTheLink :
    (∀ n ∈ bringUpCounts paramsLimit .normal .e2wtest, n ≤ 10) ∧
    (∀ n ∈ bringUpCounts paramsLimit .oscan1 .e2wtest, n ≤ 10) := by decide
theorem witness_TwoWireReentersTheLink :
    (∀ n ∈ bringUpCounts paramsLimit .normal .e2w, n ≤ 10) ∧
    (∀ n ∈ bringUpCounts paramsLimit .oscan1 .e2w, n ≤ 10) := by decide
theorem witness_InitBringsUpTheLink : paramsLimit.stfmt ≤ 10 ∧ paramsLimit.oscan1Param ≤ 10 := by decide
theorem witness_BringUpFaultsOnTheFirstBadParameter :
    Instr.e2w ∈ [Instr.oscan1, .setidle, .e2w, .e2wtest, .init] ∧
    (bringUpCounts paramsLimit .oscan1 .e2w).find? (10 < ·) = none ∧
    (upToFault (bringUpPieces paramsLimit .oscan1 true .e2w)).2 = none ∧
    (upToFault (bringUpPieces paramsOver2 .oscan1 true .e2w)).2 = some (11, .normal) ∧
    (bringUpCounts paramsOver2 .oscan1 .e2w).find? (10 < ·) = some 11 := by decide
theorem witness_BringUpSynchronisesTheTap :
    (live .normal true .drExit2).physSet ≠ [] ∧ (State.blockReset .normal true 0 .idle [] params0).physSet ≠ [] ∧
    [Instr.setidle, .e2wtest, .e2w, .init].map
        (fun i => (ran (live .normal true .drExit2) i).map fun t => t.results.map fun r => r.code) =
      [some [.ok], some [.ok], some [.ok], some [.ok]] := by decide +kernel
theorem witness_IdleStringPassesTestLogicReset : Tap.all ≠ [] ∧ [Tap.reset] ≠ [] := by decide
theorem witness_SetTapWritesTheTrackedState : State.reset.fault = 0 ∧ State.reset.initialized = false := by decide
theorem witness_TableStringsReachTheirGoals :
    (Tap.drPause, Tap.irShift, [true, true, true, true, false, false]) ∈ moveTable := by decide
theorem witness_ScanRejectsBadRequests : (0 ≠ 1 ∧ 2 ≠ 1 ∧ 993 ≤ 993 ∧ 993 ≤ 65535 : Prop) := by decide
theorem witness_ScanRunsItsSevenSteps :
    992 ≤ 992 ∧ (live .oscan1 true .idle).rx.wf ∧ (live .oscan1 true .idle).inp.wf := by decide
theorem witness_ScanReadLengthFitsTheBuffer : 992 ≤ 992 ∧ 0 ≤ 992 := by decide
theorem witness_ScanReconstructsTheResponseBits :
    let s : State := { live .oscan1 true .idle with adapterIn := List.replicate 6 0x80 }
    s.rx.wf ∧ s.inp.wf ∧ scanLength false 1 .idle s.tapState ≤ s.adapterIn.length ∧
    ∀ k < scanLength false 1 .idle s.tapState, (s.adapterIn.getD k 0).getLsbD 7 = true := by decide
theorem witness_ScanReconstructsTheResponseBits_longest :
    scanLength false 992 .idle .idle ≤ (List.replicate 997 (0x80 : Byte)).length := by
  rw [List.length_replicate]
  decide
theorem witness_ScanKeepsTheTapSynchronised :
    (∀ t ∈ [Tap.idle, .drPause, .irPause, scanShift true], (live .oscan1 true t).Synchronised) ∧
    (ran (live .oscan1 true .irShift) (.scan true .idle true true 1 4)).isSome = true := by decide
theorem witness_ScanFromElsewhereShiftsWhereItIs :
    (live .oscan1 true .drExit1).tapState ∉ [Tap.idle, .drPause, .irPause, scanShift true] ∧
    (live .oscan1 true .drShift).tapState ∉ [Tap.idle, .drPause, .irPause, scanShift true] ∧
    (live .oscan1 true .irShift).tapState ∉ [Tap.idle, .drPause, .irPause, scanShift false] := by decide
theorem witness_OnlyCycleAndTapMoveLeaveBytesPending :
    (live .oscan1 true .idle).Aligned ∧ (ran (live .oscan1 true .idle) .check).isSome = true ∧
    (ran (live .oscan1 true .idle) (.cycle false false)).map (fun t => t.adapterPending) = some 1 ∧
    (ran { live .oscan1 true .idle with adapterPending := 1 } (.trans 0)).map (fun t => t.chan) = some [] ∧
    (ran { live .oscan1 true .idle with adapterPending := 1 } .pininit).map (fun t => t.chan) =
      some ([] ++ [.write .pinInit, .read 1]) ∧
    (ran { live .oscan1 true .idle with adapterPending := 1 } (.cycle true true)).map (fun t => t.chan) =
      some ([] ++ [.write (.cyc .oscan1 true true true)]) ∧
    (ran (live .oscan1 true .idle) .pininit).map (fun t => t.chan) = some ([] ++ [.write .pinInit, .read 1]) ∧
    (ran { live .oscan1 true .idle with adapterPending := 1 } (.scan false .idle false false 1 992)).isSome = true := by
  decide +kernel
theorem witness_InputBitWriteKeepsTheOtherBits :
    Memory.wf [(0, 0x80)] ∧ (ran (live .oscan1 true .idle) .check).isSome = true := by decide
theorem witness_InputsAreNeverWritten : (ran (live .oscan1 true .idle) (.settap .reset)).isSome = true := by decide
theorem witness_RegistersChangeOnlyByTheirWriters :
    (ran (live .normal true .idle) .check).isSome = true ∧ writesTap .check = false ∧
    writesFormat .check = false ∧ writesWantResult .check = false ∧
    (live .normal true .idle).scanFormat = .normal ∧ keepsBitCount (.cycle true true) = true ∧
    Instr.check ≠ .init ∧ writesFault .check = false := by decide
theorem witness_InitializedIsSetByACompletedInit :
    (ran (State.blockReset .normal false 0 .idle [] params0) .init).map (fun t => (t.initialized, t.results)) =
      some (true, [⟨.ok, false⟩]) ∧
    (ran (State.blockReset .normal false 0 .idle [] paramsOver) .init).map (fun t => t.initialized) =
      some false := by decide +kernel
theorem witness_GhostValuesChangeNothing :
    (after ((live .oscan1 true .idle).withGhost [] 5 true true) 0x06).isSome = true := by decide
theorem witness_WantResultSelectsCyclePatternsOnly :
    (∀ v, Instr.check ≠ .wantres v) ∧ (ran (live .oscan1 true .idle) .check).isSome = true := ⟨nofun, by decide⟩

end Sys2Proof.Tests
end

section
/-! Block reset (10_state R43), and why `INIT` does not depend on what it leaves open (70_reset_and_hazards R262). -/

namespace Sys2Proof.Machine

theorem Tap.mem_all (t : Tap) : t ∈ Tap.all := by cases t <;> decide

theorem physSetWf_all : PhysSetWf Tap.all := by decide

theorem blockReset_inv {fmt : ScanFormat} {wr : Bool} {tx : BitVec 32} {tap : Tap} {rx : Memory}
    {p : Config.Params} (hwf : rx.wf) (hbelow : rx.below Config.rxCapacity) :
    (State.blockReset fmt wr tx tap rx p).Inv :=
  ⟨hwf, hbelow, Memory.wf_nil, Memory.wf_nil, Memory.wf_nil, by simp [State.blockReset], .inl rfl, physSetWf_all⟩

/-- Settles O13: every field is the one `State.blockReset` writes. -/
theorem blockResetState : Obligations.BlockResetState :=
  ⟨fun _ _ _ _ _ _ => ⟨rfl, rfl, Tap.mem_all, rfl, rfl, rfl, rfl, rfl, rfl⟩, _, _, _, _, _, _, rfl⟩

/-- Settles O14: the memories but `RX` are empty and `phys_set` is full. -/
theorem blockResetMeetsTheInvariant : Obligations.BlockResetMeetsTheInvariant :=
  ⟨blockReset_inv Memory.wf_nil (List.forall_mem_nil _), fun _ _ _ _ _ _ hwf hbelow => blockReset_inv hwf hbelow⟩

/-- The course of `INIT` is fixed by the parameters, and its run starts from registers it has written itself. -/
theorem initialise_openRegisters (s : State) (fmt : ScanFormat) (wr : Bool) (tx : BitVec 32) (tap : Tap) :
    initialise { s with scanFormat := fmt, wantResult := wr, txBitCount := tx, tapState := tap } = initialise s := by
  rw [initialise_follows, initialise_follows]
  rfl

/-- Settles O40: the two runs of `INIT` are one run. -/
theorem initForgetsTheOpenRegisters : Obligations.InitForgetsTheOpenRegisters := by
  intro s fmt wr tx tap
  exact congrArg (fun r : Run => Host.Outcome.next (r.finish false)) (initialise_openRegisters s fmt wr tx tap)

end Sys2Proof.Machine
end

section
/-! The ghost values (10_state section 3, R39, R41) influence nothing else. -/

namespace Sys2Proof.Machine

/-- `t` is `s` but for its ghost values. -/
def SameButGhost (s t : State) : Prop :=
  ∃ phys pending misaligned counted, t = s.withGhost phys pending misaligned counted

theorem sameButGhost_withGhost (s : State) (phys : List Tap) (pending : Nat) (misaligned counted : Bool) :
    SameButGhost s (s.withGhost phys pending misaligned counted) := ⟨_, _, _, _, rfl⟩

theorem sameButGhost_closed : Closed2 SameButGhost where
  scanFormat := by rintro s t ⟨_, _, _, _, rfl⟩; rfl
  tapState := by rintro s t ⟨_, _, _, _, rfl⟩; rfl
  str := by rintro s t ⟨_, _, _, _, rfl⟩; rfl
  params := by rintro s t ⟨_, _, _, _, rfl⟩; rfl
  emit := by rintro k s t - ⟨_, _, _, _, rfl⟩; exact ⟨_, _, _, _, rfl⟩
  emitCycle := by rintro a b s t ⟨_, _, _, _, rfl⟩; exact ⟨_, _, _, _, rfl⟩
  afterRead := by rintro n s t ⟨_, _, _, _, rfl⟩; exact ⟨_, _, _, _, rfl⟩
  setScanFormat := by rintro f s t ⟨_, _, _, _, rfl⟩; exact ⟨_, _, _, _, rfl⟩
  setWantResult := by rintro b s t ⟨_, _, _, _, rfl⟩; exact ⟨_, _, _, _, rfl⟩
  restore := by rintro s t u v ⟨_, _, _, _, rfl⟩ ⟨_, _, _, _, rfl⟩; exact ⟨_, _, _, _, rfl⟩
  clearBitCount := by rintro s t ⟨_, _, _, _, rfl⟩; exact ⟨_, _, _, _, rfl⟩
  countBit := by rintro s t ⟨_, _, _, _, rfl⟩; exact ⟨_, _, _, _, rfl⟩
  setTapState := by rintro k s t ⟨_, _, _, _, rfl⟩; exact ⟨_, _, _, _, rfl⟩
  setInitialized := by rintro s t ⟨_, _, _, _, rfl⟩; exact ⟨_, _, _, _, rfl⟩
  clearPending := by rintro s t ⟨p, _, m, c, rfl⟩; exact ⟨p, 0, m, c, rfl⟩
  raise := by rintro c k s t ⟨_, _, _, _, rfl⟩; exact ⟨_, _, _, _, rfl⟩
  log := by rintro c k s t ⟨_, _, _, _, rfl⟩; exact ⟨_, _, _, _, rfl⟩
  endCommand := by rintro c v s t ⟨_, _, _, _, rfl⟩; exact ⟨_, _, _, _, rfl⟩

/-- `SCAN` reads its response bytes from the adapter's answers, never from what the ghost counts (43_tap_scan R211). -/
theorem scanRun_sameButGhost (ir : Bool) (goal : Tap) (hasOut hasIn : Bool) (n : Nat) {s t : State}
    (h : SameButGhost s t) :
    SameButGhost (scanRun ir goal hasOut hasIn n s) (scanRun ir goal hasOut hasIn n t) := by
  obtain ⟨phys, pending, misaligned, counted, rfl⟩ := h
  rw [scanRun_eq, scanRun_eq]
  exact ⟨_, _, _, _, rfl⟩

theorem exec_sameButGhost (i : Instr) {s t : State} (h : SameButGhost s t) :
    ∃ u v, exec i s = .next u ∧ exec i t = .next v ∧ SameButGhost u v := by
  refine sameButGhost_closed.exec i h ?_ fun ir goal ho hi _ n _ _ => scanRun_sameButGhost ir goal ho hi n h
  obtain ⟨_, _, _, _, rfl⟩ := h
  exact fun _ _ => rfl

/-- The state a refused or rejected command ends in, mapped; a command that runs is not changed. -/
def Admission.mapEnded (f : State → State) : Admission → Admission
  | .ended s => .ended (f s)
  | .run i => .run i

/-- Admission reads `fault` and `initialized` (60_exceptions R233): it decides alike, and ends alike. -/
theorem admission_withGhost (w : CmdWord) (s : State) (phys : List Tap) (pending : Nat)
    (misaligned counted : Bool) :
    admission w (s.withGhost phys pending misaligned counted) =
      (admission w s).mapEnded fun t => t.withGhost phys pending misaligned counted := by
  have hf : (s.withGhost phys pending misaligned counted).faulted = s.faulted := rfl
  have hi : (s.withGhost phys pending misaligned counted).initialized = s.initialized := rfl
  unfold admission
  rw [hf, hi]
  cases s.faulted with
  | true => rfl
  | false =>
    cases decode w with
    | error e => rfl
    | ok i =>
      cases h : s.initialized || Instr.admittedUninit i with
      | true => simp [h, Admission.mapEnded]
      | false => simp [h, Admission.mapEnded]; rfl

/-- Settles O59: "differs only in ghost values" is kept by every command and by admission. -/
theorem ghostValuesChangeNothing : Obligations.GhostValuesChangeNothing := by
  intro s t phys pending misaligned counted hst
  have hport : (s.withGhost phys pending misaligned counted).cmdPort = s.cmdPort := rfl
  unfold step at hst ⊢
  rw [hport]
  cases hc : s.cmdPort with
  | nil =>
    rw [hc] at hst
    cases hst
    exact ⟨_, _, _, _, rfl⟩
  | cons r rest =>
    have haccept : (s.withGhost phys pending misaligned counted).accept r rest =
        (s.accept r rest).withGhost phys pending misaligned counted := rfl
    simp only [hc] at hst
    simp only [haccept, admission_withGhost]
    cases ha : admission r.word (s.accept r rest) with
    | ended u =>
      rw [ha] at hst
      cases hst
      exact ⟨_, _, _, _, rfl⟩
    | run i =>
      rw [ha] at hst
      obtain ⟨u, v, hu, hv, p, k, m, c, rfl⟩ :=
        exec_sameButGhost i (sameButGhost_withGhost (s.accept r rest) phys pending misaligned counted)
      cases hst.symm.trans hu
      exact ⟨p, k, m, c, hv⟩

end Sys2Proof.Machine
end

section
/-! `want_result` is an argument of the cycle patterns and of nothing else (10_state R34). -/

namespace Sys2Proof.Machine

open Sys2Proof.Stated

/-- `t` is `s` but for `want_result`, and for the `wr` argument of the cycles on its channel. -/
def SameButWantResult (s t : State) : Prop :=
  ∃ chan wr, chan.map withoutWr = s.chan.map withoutWr ∧ t = { s with chan := chan, wantResult := wr }

theorem map_withoutWr_append {c d e f : List ChanEvent} (h : c.map withoutWr = d.map withoutWr)
    (h' : e.map withoutWr = f.map withoutWr) : (c ++ e).map withoutWr = (d ++ f).map withoutWr := by
  rw [List.map_append, List.map_append, h, h']

theorem map_withoutWr_deferredEvents (fmt : ScanFormat) (wr wr' : Bool) (syms : List Bool) :
    (deferredEvents fmt wr syms).map withoutWr = (deferredEvents fmt wr' syms).map withoutWr := by
  simp [deferredEvents, withoutWr]

theorem map_withoutWr_payloadEvents (fmt : ScanFormat) (wr wr' hasOut : Bool) (n : Nat) (out : Memory) :
    (payloadEvents fmt wr hasOut n out).map withoutWr = (payloadEvents fmt wr' hasOut n out).map withoutWr := by
  simp [payloadEvents, withoutWr]

theorem sameButWantResult_closed : Closed2 SameButWantResult where
  scanFormat := by rintro s t ⟨_, _, -, rfl⟩; rfl
  tapState := by rintro s t ⟨_, _, -, rfl⟩; rfl
  str := by rintro s t ⟨_, _, -, rfl⟩; rfl
  params := by rintro s t ⟨_, _, -, rfl⟩; rfl
  emit := by
    rintro k s t - ⟨c, w, hc, rfl⟩
    exact ⟨c ++ [.write k], w, map_withoutWr_append hc rfl, rfl⟩
  emitCycle := by
    rintro a b s t ⟨c, w, hc, rfl⟩
    exact ⟨c ++ [.write (.cyc s.scanFormat w a b)], w, map_withoutWr_append hc rfl, rfl⟩
  afterRead := by
    rintro n s t ⟨c, w, hc, rfl⟩
    exact ⟨c ++ [.read n], w, map_withoutWr_append hc rfl, rfl⟩
  setScanFormat := by rintro f s t ⟨c, w, hc, rfl⟩; exact ⟨c, w, hc, rfl⟩
  setWantResult := by rintro b s t ⟨c, w, hc, rfl⟩; exact ⟨c, b, hc, rfl⟩
  restore := by rintro s t u v ⟨-, w, -, rfl⟩ ⟨c, -, hc, rfl⟩; exact ⟨c, w, hc, rfl⟩
  clearBitCount := by rintro s t ⟨c, w, hc, rfl⟩; exact ⟨c, w, hc, rfl⟩
  countBit := by rintro s t ⟨c, w, hc, rfl⟩; exact ⟨c, w, hc, rfl⟩
  setTapState := by rintro k s t ⟨c, w, hc, rfl⟩; exact ⟨c, w, hc, rfl⟩
  setInitialized := by rintro s t ⟨c, w, hc, rfl⟩; exact ⟨c, w, hc, rfl⟩
  clearPending := by rintro s t ⟨c, w, hc, rfl⟩; exact ⟨c, w, hc, rfl⟩
  raise := by rintro c k s t ⟨e, w, he, rfl⟩; exact ⟨e, w, he, rfl⟩
  log := by rintro c k s t ⟨e, w, he, rfl⟩; exact ⟨e, w, he, rfl⟩
  endCommand := by rintro c v s t ⟨e, w, he, rfl⟩; exact ⟨e, w, he, rfl⟩

/-- Every cycle of a `SCAN` carries `want_result`, and nothing else of it does (43_tap_scan R215). -/
theorem scanRun_sameButWantResult (ir : Bool) (goal : Tap) (hasOut hasIn : Bool) (n : Nat) {s t : State}
    (h : SameButWantResult s t) :
    SameButWantResult (scanRun ir goal hasOut hasIn n s) (scanRun ir goal hasOut hasIn n t) := by
  obtain ⟨c, w, hc, rfl⟩ := h
  have hcycles : (scanCycles ir goal hasOut n { s with chan := c, wantResult := w }).map withoutWr =
      (scanCycles ir goal hasOut n s).map withoutWr :=
    map_withoutWr_append
      (map_withoutWr_append (map_withoutWr_deferredEvents _ _ _ _) (map_withoutWr_payloadEvents _ _ _ _ _ _))
      (map_withoutWr_deferredEvents _ _ _ _)
  rw [scanRun_eq, scanRun_eq]
  exact ⟨_, w, map_withoutWr_append (map_withoutWr_append hc hcycles) rfl, rfl⟩

/-- Settles O60: "differs only in `want_result`" is kept by every command but `WANTRES`. -/
theorem wantResultSelectsCyclePatternsOnly : Obligations.WantResultSelectsCyclePatternsOnly := by
  intro s t i wr hi hst
  obtain ⟨u, v, hu, hv, c, w, hc, rfl⟩ :=
    sameButWantResult_closed.exec (s := s) (t := { s with wantResult := wr }) i ⟨s.chan, wr, rfl, rfl⟩
      (fun b hb => absurd hb (hi b))
      fun ir goal ho hin _ n _ _ => scanRun_sameButWantResult ir goal ho hin n ⟨s.chan, wr, rfl, rfl⟩
  cases hst.symm.trans hu
  exact ⟨_, hv, hc, rfl⟩

end Sys2Proof.Machine
end

section
/-! Properties that the bit-scans keep: those kept by the check packet and by every string whose symbols loop at IDLE,
since all the strings of 41_bitscan do (R146). -/

namespace Sys2Proof.Machine

/-- A property kept by the check packet and by every string that loops at IDLE. -/
structure BitScanClosed (P : State → Prop) : Prop where
  transitions : ∀ (str : TmsString) {s}, tapRun .idle str.syms = .idle → P s → P (transitionsImmediate str s)
  emitCheck : ∀ (f : ScanFormat) {s}, P s → P (emit (.chk f) s)

theorem tapRun_zbsStr (r : Nat) : tapRun .idle (zbsStr r).syms = .idle := by
  rw [zbsStr_eq, tapRun_zbsSyms]

theorem tapRun_nzbsStr (a : Nat) : tapRun .idle (nzbsStr a).syms = .idle := by
  rw [nzbsStr_eq, tapRun_nzbsSyms]

namespace BitScanClosed

variable {P : State → Prop} (hP : BitScanClosed P)
include hP

theorem checkPacket {s : State} (h : P s) : P (checkPacket s) := by
  refine hP.emitCheck _ ?_
  split
  · exact hP.transitions dummyStr rfl h
  · exact h

theorem zeroBitScan (r : Nat) {s : State} (h : P s) : (zeroBitScan r s).Holds P := by
  unfold Machine.zeroBitScan
  split
  · exact ⟨s, r, .inl rfl, rfl, h⟩
  · exact hP.transitions _ (tapRun_zbsStr r) h

theorem nonZeroBitScan (a : Nat) {s : State} (h : P s) : (nonZeroBitScan a s).Holds P := by
  unfold Machine.nonZeroBitScan
  split
  · exact ⟨s, a, .inr rfl, rfl, h⟩
  · exact hP.transitions _ (tapRun_nzbsStr a) h

theorem enterControlMode (l : Nat) {s : State} (h : P s) : (enterControlMode l s).Holds P :=
  ((hP.zeroBitScan l h).andThen fun _ h => hP.nonZeroBitScan 1 h).andDo fun _ h => hP.transitions lockStr rfl h

theorem twoPart (o p : Nat) {s : State} (h : P s) : (twoPart o p s).Holds P := by
  refine ((hP.nonZeroBitScan o h).andThen fun _ h => hP.nonZeroBitScan p h).andDo fun s h => ?_
  split
  · exact hP.checkPacket h
  · exact h

end BitScanClosed

/-- A property that neither a fault nor a result touches holds after a command when it holds along its steps. -/
theorem Run.Holds.finish_of_stable {P : State → Prop} {r : Run} (h : r.Holds P)
    (hfault : ∀ c k s, P s → P (logEntry c k (setFault c s))) (hend : ∀ c v s, P s → P (endCommand c v s))
    (v : Bool) : P (r.finish v) := by
  cases r with
  | done s => exact hend _ _ _ h
  | stopped t c =>
    obtain ⟨s, k, -, rfl, hs⟩ := h
    exact hend _ _ _ (hfault _ _ _ hs)

end Sys2Proof.Machine
end

section
/-! The mode commands as the runs of their pieces (`Stated.bringUpPieces`), from any state. -/

namespace Sys2Proof.Machine

open Sys2Proof.Stated

theorem enterOscan1_run (s : State) :
    enterOscan1 s = follows s s.wantResult s.tapState [] .oscan1 s.wantResult
      (bringUpPieces s.params s.scanFormat s.wantResult .oscan1) := by
  have h := enterOscan1_follows (s := s) (fmt := s.scanFormat) (wr := s.wantResult) (tap := s.tapState) (e := [])
  rwa [reached_self] at h

theorem setToIdle_run (s : State) :
    setToIdle s = follows s false .idle [] s.scanFormat s.wantResult
      (bringUpPieces s.params s.scanFormat s.wantResult .setidle) := by
  have h := setToIdle_follows (s := s) (fmt := s.scanFormat) (wr := s.wantResult) (tap := s.tapState) (e := [])
  rwa [reached_self] at h

theorem enterTwoWire_run (s : State) :
    enterTwoWire setToIdle s = follows s false .idle [] .oscan1 s.wantResult
      (bringUpPieces s.params s.scanFormat s.wantResult .e2w) := by
  have h := enterTwoWire_follows (s := s) (fmt := s.scanFormat) (wr := s.wantResult) (tap := s.tapState) (e := [])
    setToIdle_follows
  rwa [reached_self] at h

theorem enterTwoWireAndTest_run (s : State) :
    enterTwoWireAndTest s = follows s false .idle [] .oscan1 s.wantResult
      (bringUpPieces s.params s.scanFormat s.wantResult .e2wtest) := by
  have h := enterTwoWireAndTest_follows (s := s) (fmt := s.scanFormat) (wr := s.wantResult) (tap := s.tapState)
    (e := [])
  rwa [reached_self] at h

section
variable {s : State} {wrF wr v : Bool} {tap : Tap} {e : List ChanEvent} {fmt : ScanFormat} {ps : List Piece}

theorem follows_finish_tapState : ((follows s wrF tap e fmt wr ps).finish v).tapState = tap := by
  unfold follows
  split <;> rfl

theorem follows_finish_initialized :
    ((follows s wrF tap e fmt wr ps).finish v).initialized = s.initialized := by
  unfold follows
  split <;> rfl

theorem follows_finish_wantResult : ((follows s wr tap e fmt wr ps).finish v).wantResult = wr := by
  unfold follows
  split <;> rfl

end

end Sys2Proof.Machine
end

section
/-! Which registers a command leaves as they were (10_state R32 to R38). -/

namespace Sys2Proof.Machine

open Sys2Proof.Stated

/-- The registers that channel traffic leaves alone: all but the cycle count and `fault`. -/
structure SameLink (s u : State) : Prop where
  scanFormat : u.scanFormat = s.scanFormat
  wantResult : u.wantResult = s.wantResult
  tapState : u.tapState = s.tapState
  initialized : u.initialized = s.initialized

theorem SameLink.refl (s : State) : SameLink s s := ⟨rfl, rfl, rfl, rfl⟩

theorem sameLink_transitionsImmediate {s u : State} (str : TmsString) (h : SameLink s u) :
    SameLink s (transitionsImmediate str u) := by
  rw [transitionsImmediate_eq]
  exact ⟨h.scanFormat, h.wantResult, h.tapState, h.initialized⟩

theorem sameLink_bitScanClosed (s : State) : BitScanClosed (SameLink s) where
  transitions str _ _ h := sameLink_transitionsImmediate str h
  emitCheck _ _ h := ⟨h.scanFormat, h.wantResult, h.tapState, h.initialized⟩

theorem sameLink_finish {s : State} {r : Run} (h : r.Holds (SameLink s)) (v : Bool) : SameLink s (r.finish v) :=
  h.finish_of_stable (fun _ _ _ h => ⟨h.scanFormat, h.wantResult, h.tapState, h.initialized⟩)
    (fun _ _ _ h => ⟨h.scanFormat, h.wantResult, h.tapState, h.initialized⟩) v

/-- `FMTSW` as one update: the token is sent when the format changes (40_packet_encoder R123). -/
theorem formatSwitch_eq (f : ScanFormat) (s : State) :
    formatSwitch f s =
      { s with
        scanFormat := f
        chan := s.chan ++ if s.scanFormat = f then [] else [.write (.fsw f)] } := by
  by_cases h : s.scanFormat = f
  · subst h
    simp [formatSwitch]
  · simp [formatSwitch, h, setScanFormat, emit, physAfter, Token.responses]

/-- `CHECK` counts its dummy cycle, which it sends in OSCAN1 only (40_packet_encoder R124, R126). -/
theorem checkPacket_txBitCount_of_normal {s : State} (h : s.scanFormat = .normal) :
    (checkPacket s).txBitCount = s.txBitCount := by
  simp [checkPacket, h]

/-- Every register that `i` may not write is in `u` as in `s`; `fault` apart. -/
structure KeepsUnwritten (i : Instr) (s u : State) : Prop where
  tapState : writesTap i = false → u.tapState = s.tapState
  scanFormat : writesFormat i = false → u.scanFormat = s.scanFormat
  wantResult : writesWantResult i = false → u.wantResult = s.wantResult
  txBitCount : keepsBitCount i = true ∨ (i = .check ∧ s.scanFormat = .normal) → u.txBitCount = s.txBitCount
  initialized : i ≠ .init → u.initialized = s.initialized

theorem SameLink.keepsUnwritten {i : Instr} {s u : State} (h : SameLink s u)
    (hc : keepsBitCount i = true ∨ (i = .check ∧ s.scanFormat = .normal) → u.txBitCount = s.txBitCount) :
    KeepsUnwritten i s u :=
  ⟨fun _ => h.tapState, fun _ => h.scanFormat, fun _ => h.wantResult, hc, fun _ => h.initialized⟩

/-- A command that counts its cycles has no clause on `tx_bit_count`. -/
theorem SameLink.keepsUnwritten_of_counts {i : Instr} {s u : State} (h : SameLink s u)
    (hk : keepsBitCount i = false) (hi : i ≠ .check) : KeepsUnwritten i s u :=
  h.keepsUnwritten fun hc => by
    rcases hc with hc | ⟨hc, -⟩
    · exact absurd (hk.symm.trans hc) nofun
    · exact absurd hc hi

theorem exec_keepsUnwritten {i : Instr} {s t : State} (h : exec i s = .next t) : KeepsUnwritten i s t := by
  have hb := sameLink_bitScanClosed s
  cases i <;> cases h
  case init => exact ⟨nofun, nofun, nofun, nofun, fun h => absurd rfl h⟩
  case scan =>
    rw [scanRun_eq]
    split_ifs <;> exact ⟨nofun, fun _ => rfl, fun _ => rfl, nofun, fun _ => rfl⟩
  case pininit => exact SameLink.keepsUnwritten ⟨rfl, rfl, rfl, rfl⟩ fun _ => rfl
  case escape => exact SameLink.keepsUnwritten ⟨rfl, rfl, rfl, rfl⟩ fun _ => rfl
  case cycle => exact SameLink.keepsUnwritten ⟨rfl, rfl, rfl, rfl⟩ fun _ => rfl
  case fmtsw f =>
    rw [formatSwitch_eq]
    exact ⟨fun _ => rfl, nofun, fun _ => rfl, fun _ => rfl, fun _ => rfl⟩
  case check =>
    exact (sameLink_finish (r := .done _) (hb.checkPacket (.refl s)) false).keepsUnwritten
      fun hc => checkPacket_txBitCount_of_normal (by simpa [keepsBitCount] using hc)
  case zbs r => exact (sameLink_finish (hb.zeroBitScan r (.refl s)) _).keepsUnwritten_of_counts rfl nofun
  case nzbs a => exact (sameLink_finish (hb.nonZeroBitScan a (.refl s)) _).keepsUnwritten_of_counts rfl nofun
  case ecm l => exact (sameLink_finish (hb.enterControlMode l (.refl s)) _).keepsUnwritten_of_counts rfl nofun
  case twopart o p => exact (sameLink_finish (hb.twoPart o p (.refl s)) _).keepsUnwritten_of_counts rfl nofun
  case wantres v => exact ⟨fun _ => rfl, fun _ => rfl, nofun, fun _ => rfl, fun _ => rfl⟩
  case setidle =>
    rw [setToIdle_run]
    exact ⟨nofun, nofun, nofun, nofun, fun _ => follows_finish_initialized⟩
  case e2wtest =>
    rw [enterTwoWireAndTest_run]
    exact ⟨nofun, nofun, nofun, nofun, fun _ => follows_finish_initialized⟩
  case e2w =>
    rw [enterTwoWire_run]
    exact ⟨nofun, nofun, nofun, nofun, fun _ => follows_finish_initialized⟩
  case oscan1 =>
    rw [enterOscan1_run]
    exact ⟨fun _ => follows_finish_tapState, nofun, fun _ => follows_finish_wantResult, nofun,
      fun _ => follows_finish_initialized⟩
  case tapmove goal =>
    rw [tapMove_eq]
    exact ⟨nofun, fun _ => rfl, fun _ => rfl, nofun, fun _ => rfl⟩
  case trans len =>
    split
    · exact SameLink.keepsUnwritten_of_counts ⟨rfl, rfl, rfl, rfl⟩ rfl nofun
    · exact (sameLink_finish (r := .done _) (sameLink_transitionsImmediate _ (.refl s)) false).keepsUnwritten_of_counts
        rfl nofun
  case settap => exact ⟨nofun, fun _ => rfl, fun _ => rfl, fun _ => rfl, fun _ => rfl⟩

/-- No step writes `fault` but the taking of a fault (60_exceptions R236). -/
theorem fault_closed (x : BitVec 8) : Closed fun u => u.fault = x where
  emit _ _ h := h
  afterRead _ _ h := h
  setScanFormat _ _ h := h
  setWantResult _ _ h := h
  setBitCount _ _ h := h
  setTapState _ _ h := h
  setInitialized _ h := h
  clearPending _ h := h

/-- The commands with no bit-scan in them take no fault (R232). -/
theorem exec_fault_of_not_writesFault {i : Instr} {s t : State} (hi : writesFault i = false)
    (h : exec i s = .next t) : t.fault = s.fault := by
  have hP := fault_closed s.fault
  cases i <;> cases h
  case scan => rw [scanRun_eq]; split_ifs <;> rfl
  case pininit | escape | cycle | wantres | settap => rfl
  case fmtsw f => exact hP.formatSwitch f rfl
  case check => exact hP.checkPacket rfl
  case tapmove goal => exact hP.tapMove goal rfl
  case trans =>
    split
    · rfl
    · exact hP.transitionsImmediate _ rfl
  all_goals exact absurd hi nofun

/-- Settles O57, from what each command leaves unwritten and from the commands that take no fault. -/
theorem registersChangeOnlyByTheirWriters : Obligations.RegistersChangeOnlyByTheirWriters := by
  intro s t i h
  obtain ⟨htap, hformat, hwant, hcount, hinit⟩ := exec_keepsUnwritten h
  exact ⟨htap, hformat, hwant, hcount, hinit, fun hi => exec_fault_of_not_writesFault hi h⟩

/-- `INIT` sets `initialized` as its last step, which a fault before it leaves out (42_mode R165). -/
theorem initialise_finish_initialized (s : State) :
    ((initialise s).finish false).initialized = true ↔
      s.initialized = true ∨ ((initialise s).finish false).results = s.results ++ [⟨.ok, false⟩] := by
  rw [initialise_follows]
  unfold follows
  cases (upToFault (bringUpPieces s.params s.scanFormat s.wantResult .init)).2 with
  | none => exact ⟨fun _ => .inr rfl, fun _ => rfl⟩
  | some c =>
    have hfault : s.results ++ [⟨.faultNzbsRange, false⟩] ≠ s.results ++ [⟨.ok, false⟩] := by simp
    exact ⟨.inl, fun h => h.resolve_right hfault⟩

/-- Settles O58: an `INIT` by how it ends, every other command by its frame. -/
theorem initializedIsSetByACompletedInit : Obligations.InitializedIsSetByACompletedInit := by
  intro s t i h
  by_cases hi : i = .init
  · subst hi
    cases h
    simpa using initialise_finish_initialized s
  · rw [(exec_keepsUnwritten h).initialized hi]
    simp [hi]

end Sys2Proof.Machine
end

section
/-! Bring-up locks the TAP into IDLE (10_state R39, 42_mode R161): the idle string forces it there from every state, and
every later string loops there. -/

namespace Sys2Proof.Machine

/-- The tracked and the physical TAP are both in IDLE. -/
def AtIdle (s : State) : Prop := s.tapState = .idle ∧ s.physSet = [.idle]

theorem transitionsImmediate_physSet (str : TmsString) (s : State) :
    (transitionsImmediate str s).physSet = physRun s.physSet str.syms := by
  rw [transitionsImmediate_eq]
  exact physEvent_immediateEvents _ _ _ _

theorem atIdle_bitScanClosed : BitScanClosed AtIdle where
  transitions str s hloop h := by
    obtain ⟨htap, hphys⟩ := h
    refine ⟨by rw [transitionsImmediate_eq]; exact htap, ?_⟩
    rw [transitionsImmediate_physSet, hphys, physRun_singleton, hloop]
  emitCheck _ _ h := h

theorem forceIdle_atIdle {s : State} (h : s.physSet ≠ []) : AtIdle (forceIdle s) :=
  ⟨rfl, (transitionsImmediate_physSet idleStr s).trans (physRun_idleSyms h)⟩

theorem AtIdle.physSet_ne_nil {s : State} (h : AtIdle s) : s.physSet ≠ [] := by
  rw [h.2]
  exact List.cons_ne_nil _ _

theorem AtIdle.formatSwitch {s : State} (f : ScanFormat) (h : AtIdle s) : AtIdle (formatSwitch f s) := by
  rw [formatSwitch_eq]
  exact h

theorem AtIdle.enterOscan1 {s : State} (h : AtIdle s) : (enterOscan1 s).Holds AtIdle := by
  refine ((atIdle_bitScanClosed.twoPart _ _ h).andDo fun _ h => atIdle_bitScanClosed.checkPacket h).andDo
    fun s h => ?_
  split
  · exact h.formatSwitch _
  · exact h

theorem enterTwoWire_atIdle {toIdle : State → Run} (hi : ∀ s, s.physSet ≠ [] → (toIdle s).Holds AtIdle)
    {s : State} (h : s.physSet ≠ []) : (enterTwoWire toIdle s).Holds AtIdle := by
  refine (((((hi (setWantResult false s) h).andThen fun _ h => atIdle_bitScanClosed.enterControlMode 2 h).andThen
    fun _ h => h.enterOscan1).andThen fun _ h => atIdle_bitScanClosed.twoPart _ _ h).andDo fun t h => ?_).andDo
    fun _ h => h
  split
  · exact atIdle_bitScanClosed.transitions reconnectStr rfl h
  · exact h

theorem setToIdle_atIdle {s : State} (h : s.physSet ≠ []) : (setToIdle s).Holds AtIdle := by
  have hidle := forceIdle_atIdle h
  unfold setToIdle recoverTwoWire
  split
  · exact hidle
  · have hagain := forceIdle_atIdle (hidle.formatSwitch .normal).physSet_ne_nil
    exact enterTwoWire_atIdle (toIdle := fun t => .done (forceIdle t)) (fun _ h => forceIdle_atIdle h)
      hagain.physSet_ne_nil

theorem enterTwoWireAndTest_atIdle {s : State} (h : s.physSet ≠ []) : (enterTwoWireAndTest s).Holds AtIdle :=
  ((((setToIdle_atIdle (s := setWantResult false s) h).andThen
    fun _ h => atIdle_bitScanClosed.enterControlMode 2 h).andThen fun _ h => h.enterOscan1).andDo
    fun _ h => atIdle_bitScanClosed.transitions reconnectStr rfl h).andDo fun _ h => h

/-- An escape leaves all sixteen TAP states possible (40_packet_encoder R121). -/
theorem escapeSequence_physSet_ne_nil (s : State) : (escapeSequence s).physSet ≠ [] := by
  have h : (escapeSequence s).physSet = Tap.all := rfl
  rw [h]
  decide

theorem initialise_atIdle (s : State) : (initialise s).Holds AtIdle :=
  ((setToIdle_atIdle (escapeSequence_physSet_ne_nil _)).andThen
    fun _ h => enterTwoWireAndTest_atIdle h.physSet_ne_nil).andDo fun _ h => h

theorem atIdle_finish {r : Run} (h : r.Holds AtIdle) (v : Bool) : AtIdle (r.finish v) :=
  h.finish_of_stable (fun _ _ _ h => h) (fun _ _ _ h => h) v

/-- Settles O42: the TAP is in IDLE at the end of the command, and would be where a fault stopped it too. -/
theorem bringUpSynchronisesTheTap : Obligations.BringUpSynchronisesTheTap := by
  intro s t i v hi hphys h _
  have hend : AtIdle t := by
    simp only [List.mem_cons, List.not_mem_nil, or_false] at hi
    rcases hi with rfl | rfl | rfl | rfl <;> cases h
    · exact atIdle_finish (setToIdle_atIdle hphys) _
    · exact atIdle_finish (enterTwoWireAndTest_atIdle hphys) _
    · exact atIdle_finish (enterTwoWire_atIdle (fun _ h => setToIdle_atIdle h) hphys) _
    · exact atIdle_finish (initialise_atIdle s) _
  obtain ⟨htap, hsync⟩ := hend
  exact ⟨htap, hsync.trans (by rw [htap])⟩

end Sys2Proof.Machine
end

section
/-! How a command ends, and what a step can do (60_exceptions R230, R233): each case once, for every property. -/

namespace Sys2Proof.Machine

open Sys2Proof.Stated

/-- A property of the state before the command, and of the states its steps reach, holds after the command when no end
of a command touches it. -/
theorem Ended.holds {P : State → Prop} {i : Instr} {s t : State} (h : Ended P i s t) (hs : P s)
    (hend : ∀ c v u, P u → P (endCommand c v u)) (hlog : ∀ c k u, P u → P (logEntry c k u))
    (hfault : ∀ c u, c = .faultZbsRange ∨ c = .faultNzbsRange → P u → P (setFault c u)) : P t := by
  cases h with
  | completed u hu => exact hend _ _ _ hu
  | rejected c k _ => exact hend _ _ _ (hlog _ _ _ hs)
  | faulted u c k hc hu => exact hend _ _ _ (hlog _ _ _ (hfault _ _ hc hu))

/-- What the primitives, the accepted scans and the ends of a command keep, every command keeps. -/
theorem Closed.exec_next {P : State → Prop} (hP : Closed P) {i : Instr} {s t : State} (hs : P s)
    (hscan : ∀ ir goal ho hi nf n, i = .scan ir goal ho hi nf n → n ≤ 992 → P (scanRun ir goal ho hi n s))
    (hend : ∀ c v u, P u → P (endCommand c v u)) (hlog : ∀ c k u, P u → P (logEntry c k u))
    (hfault : ∀ c u, c = .faultZbsRange ∨ c = .faultNzbsRange → P u → P (setFault c u))
    (h : Machine.exec i s = .next t) : P t := by
  obtain ⟨u, hu, hended⟩ := hP.exec i hs hscan
  cases h.symm.trans hu
  exact hended.holds hs hend hlog hfault

/-- A command that admission ends is refused or rejected, by the first check it fails (60_exceptions R233). -/
theorem admission_ended {w : CmdWord} {s t : State} (h : admission w s = .ended t) :
    (s.faulted = true ∧ t = refuse .refusedFaulted s) ∨
    (s.faulted = false ∧ (∃ e, decode w = .error e) ∧ t = reject .rejIllegalCmd w.toNat s) ∨
    (s.faulted = false ∧ (∃ i, decode w = .ok i ∧ (s.initialized || Instr.admittedUninit i) = false) ∧
      t = refuse .refusedUninit s) := by
  unfold admission at h
  cases hf : s.faulted with
  | true =>
    rw [hf] at h
    cases h
    exact .inl ⟨rfl, rfl⟩
  | false =>
    rw [hf] at h
    cases hd : decode w with
    | error e =>
      rw [hd] at h
      cases h
      exact .inr (.inl ⟨rfl, ⟨e, rfl⟩, rfl⟩)
    | ok i =>
      cases hi : s.initialized || Instr.admittedUninit i with
      | true => simp [hd, hi] at h
      | false =>
        simp only [hd, hi, Bool.false_eq_true, if_false] at h
        cases h
        exact .inr (.inr ⟨rfl, ⟨i, rfl, hi⟩, rfl⟩)

/-- A step idles, ends the oldest request at admission, or runs it. -/
theorem step_cases {s t : State} (h : step s = .next t) :
    (s.cmdPort = [] ∧ t = s) ∨
    ∃ r rest, s.cmdPort = r :: rest ∧
      (admission r.word (s.accept r rest) = .ended t ∨
        ∃ i, admission r.word (s.accept r rest) = .run i ∧ exec i (s.accept r rest) = .next t) := by
  unfold step at h
  cases hport : s.cmdPort with
  | nil =>
    rw [hport] at h
    cases h
    exact .inl ⟨rfl, rfl⟩
  | cons r rest =>
    refine .inr ⟨r, rest, rfl, ?_⟩
    simp only [hport] at h
    cases ha : admission r.word (s.accept r rest) with
    | ended u =>
      rw [ha] at h
      cases h
      exact .inl rfl
    | run i =>
      rw [ha] at h
      exact .inr ⟨i, rfl, h⟩

end Sys2Proof.Machine
end

section
/-! Every step keeps the invariant (20_memory R60, R64; 10_state R38, R39). -/

namespace Sys2Proof.Machine

open Sys2Proof.Stated

/-- A set written by filtering `Tap.all` is in canonical form. -/
theorem physSetWf_filter {p : Tap → Bool} (h : Tap.all.filter p ≠ []) : PhysSetWf (Tap.all.filter p) := by
  refine ⟨List.filter_congr fun q hq => ?_, h⟩
  rw [Bool.eq_iff_iff]
  simp [hq]

/-- The next-state function is total, so a non-empty set steps to a non-empty set (10_state R39, R40). -/
theorem physSetWf_physStep {phys : List Tap} (h : phys ≠ []) (b : Bool) : PhysSetWf (physStep phys b) := by
  obtain ⟨p, hp⟩ := List.exists_mem_of_ne_nil _ h
  exact physSetWf_filter (List.ne_nil_of_mem (mem_physStep.2 ⟨p, hp, rfl⟩))

theorem physSetWf_physRun {phys : List Tap} (h : PhysSetWf phys) (syms : List Bool) :
    PhysSetWf (physRun phys syms) := by
  induction syms generalizing phys with
  | nil => exact h
  | cons b syms ih => exact ih (physSetWf_physStep h.2 b)

theorem physSetWf_physAfter {phys : List Tap} (h : PhysSetWf phys) (t : Token) : PhysSetWf (physAfter phys t) := by
  cases t with
  | pinInit | esc => exact physSetWf_all
  | cyc _ _ tms _ => exact physSetWf_physStep h.2 tms
  | fsw _ | chk _ => exact h

theorem inv_closed : Closed State.Inv where
  emit t _ h := by
    obtain ⟨hrx, hbelow, hout, hinp, hstr, hport, hfault, hphys⟩ := h
    exact ⟨hrx, hbelow, hout, hinp, hstr, hport, hfault, physSetWf_physAfter hphys t⟩
  afterRead _ _ h := h
  setScanFormat _ _ h := h
  setWantResult _ _ h := h
  setBitCount _ _ h := h
  setTapState _ _ h := h
  setInitialized _ h := h
  clearPending _ h := h

theorem State.Inv.setFault {s : State} (h : s.Inv) {c : ResultCode} (hc : c = .faultZbsRange ∨ c = .faultNzbsRange) :
    (setFault c s).Inv := by
  obtain ⟨hrx, hbelow, hout, hinp, hstr, hport, -, hphys⟩ := h
  have hcode := hc.imp (congrArg ResultCode.toByte) (congrArg ResultCode.toByte)
  exact ⟨hrx, hbelow, hout, hinp, hstr, hport, .inr hcode, hphys⟩

/-- The buffers of the request taken are canonical, as those of the requests that wait (20_memory R71). -/
theorem State.Inv.accept {s : State} {r : Request} {rest : List Request} (h : s.Inv) (hport : s.cmdPort = r :: rest) :
    (s.accept r rest).Inv := by
  obtain ⟨hrx, hbelow, -, -, -, hwf, hfault, hphys⟩ := h
  rw [hport] at hwf
  obtain ⟨⟨hout, hinp, hstr⟩, hrest⟩ := List.forall_mem_cons.1 hwf
  exact ⟨hrx, hbelow, hout, hinp, hstr, hrest, hfault, hphys⟩

/-- From EXIT1 the table moves in at most two cycles (43_tap_scan R191, R192). -/
theorem scanPost_length_le_two {n : Nat} (hn : n ≠ 0) (ir : Bool) (goal tap : Tap) :
    (scanPost ir n goal tap).length ≤ 2 := by
  have hexit : ∀ ir goal, ((moveSyms (scanExit1 ir) goal).getD []).length ≤ 2 := by
    intro ir goal
    cases ir <;> cases goal <;> decide
  unfold scanPost tapAfterPayload
  rw [if_neg hn]
  exact hexit ir goal

/-- The read of an accepted scan fits the receive buffer (20_memory R64, 43_tap_scan R219). -/
theorem scanLength_le_rxCapacity {n : Nat} (hn : n ≤ 992) (ir : Bool) (goal tap : Tap) :
    scanLength ir n goal tap ≤ Config.rxCapacity := by
  have hpre := scanPre_length_le ir tap
  unfold scanLength Config.rxCapacity
  by_cases h0 : n = 0
  · have hpost := scanPost_length_le ir n goal tap
    omega
  · have hpost := scanPost_length_le_two h0 ir goal tap
    omega

/-- `SCAN` writes its answers inside `RX` and single bits of `IN`, and steps `phys_set` along its cycles. -/
theorem scanRun_inv {n : Nat} (hn : n ≤ 992) (ir : Bool) (goal : Tap) (hasOut hasIn : Bool) {s : State} (h : s.Inv) :
    (scanRun ir goal hasOut hasIn n s).Inv := by
  obtain ⟨hrx, hbelow, hout, hinp, hstr, hport, hfault, hphys⟩ := h
  rw [scanRun_eq]
  refine ⟨Memory.wf_writeList hrx _ _, Memory.below_writeList hbelow ?_, hout, ?_, hstr, hport, hfault,
    physSetWf_physRun hphys _⟩
  · rw [responses_length, Nat.zero_add]
    exact scanLength_le_rxCapacity hn ir goal s.tapState
  · cases hasIn with
    | true => exact wf_foldl_setBit _ _ hinp
    | false => exact hinp

theorem exec_inv {i : Instr} {s t : State} (hs : s.Inv) (h : exec i s = .next t) : t.Inv :=
  inv_closed.exec_next hs (fun ir goal ho hi _ _ _ hn => scanRun_inv hn ir goal ho hi hs)
    (fun _ _ _ h => h) (fun _ _ _ h => h) (fun _ _ hc h => h.setFault hc) h

theorem admission_ended_inv {w : CmdWord} {s t : State} (hs : s.Inv) (h : admission w s = .ended t) : t.Inv := by
  obtain ⟨-, rfl⟩ | ⟨-, -, rfl⟩ | ⟨-, -, rfl⟩ := admission_ended h <;> exact hs

/-- Settles O15: taking a request keeps the invariant, and so do the ends of admission and every command. -/
theorem stepKeepsTheInvariant : Obligations.StepKeepsTheInvariant := by
  intro s t hs h
  obtain ⟨-, rfl⟩ | ⟨r, rest, hport, hended | ⟨i, -, hrun⟩⟩ := step_cases h
  · exact hs
  · exact admission_ended_inv (hs.accept hport) hended
  · exact exec_inv (hs.accept hport) hrun

end Sys2Proof.Machine
end

section
/-! What a command writes to the memory spaces: `SCAN` alone writes, to `RX` and to single bits of `IN`
(20_memory R60, R63). -/

namespace Sys2Proof.Machine

open Sys2Proof.Stated

/-- Writing bit `i` is seen at bit `i` only: at the other bits of its byte, and at the other bytes, nothing changes. -/
theorem bitOf_setBit {m : Memory} (h : m.wf) (i j : Nat) (b : Bool) :
    bitOf (m.setBit i b) j = if j = i then b else bitOf m j := by
  have hi := Nat.mod_lt i (show 0 < 8 by decide)
  have hj := Nat.mod_lt j (show 0 < 8 by decide)
  unfold bitOf Memory.setBit
  rw [Memory.read_write h]
  by_cases hbyte : j / 8 = i / 8
  · have hbit : j % 8 = i % 8 ↔ j = i := by omega
    rw [if_pos hbyte, withBit_getLsbD _ _ hi _ _ hj, hbyte]
    simp only [hbit]
  · have hne : j ≠ i := fun hji => hbyte (by rw [hji])
    rw [if_neg hbyte, if_neg hne]

/-- What the command `i` leaves in `u` as it was in `s`: the inputs, and unless it is a `SCAN` also `RX` and `IN`. -/
def KeepsStorage (i : Instr) (s u : State) : Prop :=
  (u.out = s.out ∧ u.str = s.str ∧ u.params = s.params ∧ u.cmdPort = s.cmdPort) ∧
  ((∀ ir e ho hi nf n, i ≠ .scan ir e ho hi nf n) → u.rx = s.rx ∧ u.inp = s.inp)

theorem keepsStorage_closed (i : Instr) (s : State) : Closed (KeepsStorage i s) where
  emit _ _ h := h
  afterRead _ _ h := h
  setScanFormat _ _ h := h
  setWantResult _ _ h := h
  setBitCount _ _ h := h
  setTapState _ _ h := h
  setInitialized _ h := h
  clearPending _ h := h

theorem scanRun_keepsStorage (ir : Bool) (goal : Tap) (hasOut hasIn : Bool) (nf n : Nat) (s : State) :
    KeepsStorage (.scan ir goal hasOut hasIn nf n) s (scanRun ir goal hasOut hasIn n s) := by
  rw [scanRun_eq]
  exact ⟨⟨rfl, rfl, rfl, rfl⟩, fun hi => absurd rfl (hi _ _ _ _ _ _)⟩

theorem exec_keepsStorage {i : Instr} {s t : State} (h : exec i s = .next t) : KeepsStorage i s t := by
  refine (keepsStorage_closed i s).exec_next ⟨⟨rfl, rfl, rfl, rfl⟩, fun _ => ⟨rfl, rfl⟩⟩ ?_
    (fun _ _ _ h => h) (fun _ _ _ h => h) (fun _ _ _ h => h) h
  rintro ir goal ho hi nf n rfl -
  exact scanRun_keepsStorage ir goal ho hi nf n s

/-- Settles O54, by the byte and the bit written, and by the frame of the commands other than `SCAN`. -/
theorem inputBitWriteKeepsTheOtherBits : Obligations.InputBitWriteKeepsTheOtherBits :=
  ⟨fun _ i j b hm => bitOf_setBit hm i j b, fun _ _ _ hi h => (exec_keepsStorage h).2 hi⟩

/-- Settles O55, by the frame of every command, `SCAN` included. -/
theorem inputsAreNeverWritten : Obligations.InputsAreNeverWritten := fun _ _ _ h => (exec_keepsStorage h).1

end Sys2Proof.Machine
end

section
/-! Command words and instructions (30_encoding R80 to R88): a word decodes to an instruction exactly when it is that
instruction's encoding (R104). A word is read as its opcode, `w.toNat % 32`, and its operand bits, `w.toNat / 32`. -/

namespace Sys2Proof

open Sys2Proof.Laws

/-! ### The codes of the operands (R81, R87, R88) -/

theorem toNat_beq_one {n : Nat} (h : n < 2) : (n == 1).toNat = n := by
  interval_cases n <;> rfl

theorem beq_one_toNat (b : Bool) : (b.toNat == 1) = b := by cases b <;> rfl

theorem Tap.code_ofCode {n : Nat} (h : n < 16) : (Tap.ofCode n).code = n := by
  interval_cases n <;> rfl

theorem Tap.ofCode_code (t : Tap) : Tap.ofCode t.code = t := by cases t <;> rfl

theorem ScanFormat.code_ofCode {n : Nat} (h : n < 2) : (ScanFormat.ofCode n).code = n := by
  interval_cases n <;> rfl

theorem ScanFormat.ofCode_code (f : ScanFormat) : ScanFormat.ofCode f.code = f := by cases f <;> rfl

/-! ### The formats (R81, R82) -/

theorem field_lt (w : CmdWord) (hi lo : Nat) : field w hi lo < 2 ^ (hi - lo + 1) :=
  Nat.mod_lt _ (by positivity)

theorem field_opcode (w : CmdWord) : field w 4 0 = w.toNat % 32 := by
  simp [field]

section
variable {w : CmdWord} {i : Instr} {k : Nat}

theorem whenZero_eq_ok_iff {n : Nat} {j : Instr} : whenZero n j = .ok i ↔ n = 0 ∧ j = i := by
  unfold whenZero
  split <;> simp [*]

/-- The bits above `k` operand bits are zero when the operand bits make a number below `2 ^ k`. -/
theorem field_reserved_eq_zero_iff (hk : k ≤ 27) : field w 31 (5 + k) = 0 ↔ w.toNat / 32 < 2 ^ k := by
  have hpow : 2 ^ 32 ≤ 2 ^ (5 + k) * 2 ^ (31 - (5 + k) + 1) := by
    rw [← Nat.pow_add]
    exact Nat.pow_le_pow_right (by decide) (by omega)
  rw [field, Nat.mod_eq_of_lt (Nat.div_lt_of_lt_mul (w.isLt.trans_le hpow)), Nat.pow_add,
    ← Nat.div_div_eq_div_mul, Nat.div_eq_zero_iff_lt (by positivity)]

theorem decodeF0_eq_ok_iff {j : Instr} : decodeF0 w j = .ok i ↔ w.toNat / 32 = 0 ∧ j = i := by
  rw [decodeF0, whenZero_eq_ok_iff, field_reserved_eq_zero_iff (k := 0) (by decide), Nat.pow_zero, Nat.lt_one_iff]

/-- A format with one operand of `k` bits. -/
theorem whenZero_operand_eq_ok_iff {mk : Nat → Instr} (hpos : 0 < k) (hk : k ≤ 27) :
    whenZero (field w 31 (5 + k)) (mk (field w (4 + k) 5)) = .ok i ↔
      w.toNat / 32 < 2 ^ k ∧ mk (w.toNat / 32) = i := by
  rw [whenZero_eq_ok_iff, field_reserved_eq_zero_iff hk]
  refine and_congr_right fun hlt => ?_
  rw [field, show 4 + k - 5 + 1 = k by omega, show (2 : Nat) ^ 5 = 32 from rfl, Nat.mod_eq_of_lt hlt]

theorem decodeFB_eq_ok_iff {mk : Nat → Instr} :
    decodeFB w mk = .ok i ↔ w.toNat / 32 < 2 ^ 1 ∧ mk (w.toNat / 32) = i :=
  whenZero_operand_eq_ok_iff (k := 1) (by decide) (by decide)

theorem decodeF4_eq_ok_iff {mk : Nat → Instr} :
    decodeF4 w mk = .ok i ↔ w.toNat / 32 < 2 ^ 4 ∧ mk (w.toNat / 32) = i :=
  whenZero_operand_eq_ok_iff (k := 4) (by decide) (by decide)

theorem decodeFSTR_eq_ok_iff {mk : Nat → Instr} :
    decodeFSTR w mk = .ok i ↔ w.toNat / 32 < 2 ^ 10 ∧ mk (w.toNat / 32) = i :=
  whenZero_operand_eq_ok_iff (k := 10) (by decide) (by decide)

/-- A format with two operands of `k` bits. -/
theorem whenZero_operands_eq_ok_iff {mk : Nat → Nat → Instr} (hpos : 0 < k) (hk : 2 * k ≤ 27) :
    whenZero (field w 31 (5 + 2 * k)) (mk (field w (4 + k) 5) (field w (4 + 2 * k) (5 + k))) = .ok i ↔
      w.toNat / 32 < 2 ^ (2 * k) ∧ mk (w.toNat / 32 % 2 ^ k) (w.toNat / 32 / 2 ^ k) = i := by
  rw [whenZero_eq_ok_iff, field_reserved_eq_zero_iff hk]
  refine and_congr_right fun hlt => ?_
  have hupper : w.toNat / 32 / 2 ^ k < 2 ^ k :=
    Nat.div_lt_of_lt_mul (by rwa [← Nat.pow_add, ← Nat.two_mul])
  rw [field, field, show 4 + k - 5 + 1 = k by omega, show 4 + 2 * k - (5 + k) + 1 = k by omega, Nat.pow_add 2 5 k,
    ← Nat.div_div_eq_div_mul, show (2 : Nat) ^ 5 = 32 from rfl, Nat.mod_eq_of_lt hupper]

theorem decodeFC_eq_ok_iff {mk : Nat → Nat → Instr} :
    decodeFC w mk = .ok i ↔ w.toNat / 32 < 2 ^ 2 ∧ mk (w.toNat / 32 % 2 ^ 1) (w.toNat / 32 / 2 ^ 1) = i :=
  whenZero_operands_eq_ok_iff (k := 1) (by decide) (by decide)

theorem decodeF44_eq_ok_iff {mk : Nat → Nat → Instr} :
    decodeF44 w mk = .ok i ↔ w.toNat / 32 < 2 ^ 8 ∧ mk (w.toNat / 32 % 2 ^ 4) (w.toNat / 32 / 2 ^ 4) = i :=
  whenZero_operands_eq_ok_iff (k := 4) (by decide) (by decide)

end

/-! ### Decoding an encoding -/

/-- Every well-formed instruction fits a command word and has a legal opcode (R80, R83, R84). -/
theorem encodeNat_fits (i : Instr) : FitsWord.Statement i := by
  cases i with
  | init => exact FitsWord.init
  | scan => exact FitsWord.scan _ _ _ _ _ _
  | pininit => exact FitsWord.pininit
  | escape => exact FitsWord.escape
  | cycle => exact FitsWord.cycle _ _
  | fmtsw => exact FitsWord.fmtsw _
  | check => exact FitsWord.check
  | zbs => exact FitsWord.zbs _
  | nzbs => exact FitsWord.nzbs _
  | ecm => exact FitsWord.ecm _
  | twopart => exact FitsWord.twopart _ _
  | wantres => exact FitsWord.wantres _
  | setidle => exact FitsWord.setidle
  | e2wtest => exact FitsWord.e2wtest
  | e2w => exact FitsWord.e2w
  | oscan1 => exact FitsWord.oscan1
  | tapmove => exact FitsWord.tapmove _
  | trans => exact FitsWord.trans _
  | settap => exact FitsWord.settap _

theorem toNat_encode {i : Instr} (h : i.WellFormed) : (encode i).toNat = encodeNat i := by
  rw [encode, BitVec.toNat_ofNat, Nat.mod_eq_of_lt (encodeNat_fits i h).1]

/-- The opcode of each command (R83). -/
def Instr.opcode : Instr → Nat
  | .init => 0x00
  | .scan _ _ _ _ _ _ => 0x01
  | .pininit => 0x02
  | .escape => 0x03
  | .cycle _ _ => 0x04
  | .fmtsw _ => 0x05
  | .check => 0x06
  | .zbs _ => 0x07
  | .nzbs _ => 0x08
  | .ecm _ => 0x09
  | .twopart _ _ => 0x0A
  | .wantres _ => 0x0B
  | .setidle => 0x0C
  | .e2wtest => 0x0D
  | .e2w => 0x0E
  | .oscan1 => 0x0F
  | .tapmove _ => 0x10
  | .trans _ => 0x11
  | .settap _ => 0x12

/-- The low five bits of an instruction's word are its opcode (R80). -/
theorem encodeNat_mod_32 (i : Instr) : encodeNat i % 32 = i.opcode := by
  cases i <;> simp only [encodeNat, Instr.opcode] <;> omega

theorem decodeFS_of_toNat {w : CmdWord} {ir hasOut hasIn : Bool} {e : Tap} {nf n : Nat}
    (h : (Instr.scan ir e hasOut hasIn nf n).WellFormed) (hw : w.toNat = encodeNat (.scan ir e hasOut hasIn nf n)) :
    decodeFS w = .ok (.scan ir e hasOut hasIn nf n) := by
  simp only [Instr.WellFormed, Instr.wellFormed, Bool.and_eq_true, decide_eq_true_eq] at h
  have hir := Bool.toNat_lt ir
  have he := FitsWord.tap_code_lt e
  have hout := Bool.toNat_lt hasOut
  have hin := Bool.toNat_lt hasIn
  have hfields : field w 5 5 = ir.toNat ∧ field w 9 6 = e.code ∧ field w 10 10 = hasOut.toNat ∧
      field w 11 11 = hasIn.toNat ∧ field w 15 12 = nf ∧ field w 31 16 = n := by
    simp only [field, hw, encodeNat]
    omega
  obtain ⟨h1, h2, h3, h4, h5, h6⟩ := hfields
  rw [decodeFS, h1, h2, h3, h4, h5, h6, beq_one_toNat, beq_one_toNat, beq_one_toNat, Tap.ofCode_code]

/-- Each well-formed instruction is read back from its number, format by format (R81 to R83). -/
theorem decode_of_toNat {w : CmdWord} {i : Instr} (h : i.WellFormed) (hw : w.toNat = encodeNat i) :
    decode w = .ok i := by
  have hop : field w 4 0 = i.opcode := by rw [field_opcode, hw, encodeNat_mod_32]
  unfold decode
  rw [hop]
  cases i with
  | init | pininit | escape | check | setidle | e2wtest | e2w | oscan1 =>
    exact decodeF0_eq_ok_iff.2 ⟨by rw [hw]; rfl, rfl⟩
  | scan ir e hasOut hasIn nf n => exact decodeFS_of_toNat h hw
  | cycle tms tdi =>
    have hbits : w.toNat / 32 = tms.toNat + tdi.toNat * 2 := by rw [hw, encodeNat]; omega
    have hlt := Bool.toNat_lt tms
    refine decodeFC_eq_ok_iff.2 ⟨by have := Bool.toNat_lt tdi; omega, ?_⟩
    rw [show w.toNat / 32 % 2 ^ 1 = tms.toNat by omega, show w.toNat / 32 / 2 ^ 1 = tdi.toNat by omega,
      beq_one_toNat, beq_one_toNat]
  | fmtsw target =>
    have hbits : w.toNat / 32 = target.code := by rw [hw, encodeNat]; omega
    refine decodeFB_eq_ok_iff.2 ⟨hbits.trans_lt (FitsWord.format_code_lt target), ?_⟩
    rw [hbits, ScanFormat.ofCode_code]
  | wantres value =>
    have hbits : w.toNat / 32 = value.toNat := by rw [hw, encodeNat]; omega
    refine decodeFB_eq_ok_iff.2 ⟨hbits.trans_lt (Bool.toNat_lt value), ?_⟩
    rw [hbits, beq_one_toNat]
  | tapmove state | settap state =>
    have hbits : w.toNat / 32 = state.code := by rw [hw, encodeNat]; omega
    refine decodeF4_eq_ok_iff.2 ⟨hbits.trans_lt (FitsWord.tap_code_lt state), ?_⟩
    rw [hbits, Tap.ofCode_code]
  | zbs n | nzbs n | ecm n =>
    have hbits : w.toNat / 32 = n := by rw [hw, encodeNat]; omega
    exact decodeF4_eq_ok_iff.2 ⟨hbits.trans_lt (of_decide_eq_true h), by rw [hbits]⟩
  | twopart opcode operand =>
    have hbits : w.toNat / 32 = opcode + operand * 2 ^ 4 := by rw [hw, encodeNat]; omega
    simp only [Instr.WellFormed, Instr.wellFormed, Bool.and_eq_true, decide_eq_true_eq] at h
    refine decodeF44_eq_ok_iff.2 ⟨by omega, ?_⟩
    rw [show w.toNat / 32 % 2 ^ 4 = opcode by omega, show w.toNat / 32 / 2 ^ 4 = operand by omega]
  | trans len =>
    have hbits : w.toNat / 32 = len := by rw [hw, encodeNat]; omega
    exact decodeFSTR_eq_ok_iff.2 ⟨hbits.trans_lt (Nat.lt_succ_of_le (of_decide_eq_true h)), by rw [hbits]⟩

/-- Settles O1: the word holds the number the instruction makes, and each format reads it back. -/
theorem decodeOfEncodeIsTheInstruction : Obligations.DecodeOfEncodeIsTheInstruction :=
  fun _ h => decode_of_toNat h (toNat_encode h)

/-! ### The encoding of a decoded word -/

theorem toNat_of_decodeFS {w : CmdWord} {i : Instr} (hop : w.toNat % 32 = 0x01) (h : decodeFS w = .ok i) :
    i.WellFormed ∧ encodeNat i = w.toNat := by
  cases h
  constructor
  · simp only [Instr.WellFormed, Instr.wellFormed, Bool.and_eq_true, decide_eq_true_eq]
    exact ⟨field_lt w 15 12, field_lt w 31 16⟩
  · rw [encodeNat, toNat_beq_one (field_lt w 5 5), toNat_beq_one (field_lt w 10 10), toNat_beq_one (field_lt w 11 11),
      Tap.code_ofCode (field_lt w 9 6)]
    simp only [field]
    omega

/-- A word decodes only to well-formed instructions, and is their number (R104). -/
theorem toNat_of_decode {w : CmdWord} {i : Instr} (h : decode w = .ok i) :
    i.WellFormed ∧ encodeNat i = w.toNat := by
  unfold decode at h
  rw [field_opcode] at h
  generalize hop : w.toNat % 32 = op at h
  match op, hop, h with
  | 0x00, hop, h | 0x02, hop, h | 0x03, hop, h | 0x06, hop, h | 0x0C, hop, h | 0x0D, hop, h | 0x0E, hop, h
  | 0x0F, hop, h =>
    obtain ⟨hzero, rfl⟩ := decodeF0_eq_ok_iff.1 h
    exact ⟨rfl, by rw [encodeNat]; omega⟩
  | 0x01, hop, h => exact toNat_of_decodeFS hop h
  | 0x04, hop, h =>
    obtain ⟨hlt, rfl⟩ := decodeFC_eq_ok_iff.1 h
    refine ⟨rfl, ?_⟩
    rw [encodeNat, toNat_beq_one (by omega), toNat_beq_one (by omega)]
    omega
  | 0x05, hop, h =>
    obtain ⟨hlt, rfl⟩ := decodeFB_eq_ok_iff.1 h
    refine ⟨rfl, ?_⟩
    rw [encodeNat, ScanFormat.code_ofCode hlt]
    omega
  | 0x07, hop, h | 0x08, hop, h | 0x09, hop, h =>
    obtain ⟨hlt, rfl⟩ := decodeF4_eq_ok_iff.1 h
    exact ⟨decide_eq_true hlt, by rw [encodeNat]; omega⟩
  | 0x0A, hop, h =>
    obtain ⟨hlt, rfl⟩ := decodeF44_eq_ok_iff.1 h
    refine ⟨?_, by rw [encodeNat]; omega⟩
    simp only [Instr.WellFormed, Instr.wellFormed, Bool.and_eq_true, decide_eq_true_eq]
    omega
  | 0x0B, hop, h =>
    obtain ⟨hlt, rfl⟩ := decodeFB_eq_ok_iff.1 h
    refine ⟨rfl, ?_⟩
    rw [encodeNat, toNat_beq_one hlt]
    omega
  | 0x10, hop, h | 0x12, hop, h =>
    obtain ⟨hlt, rfl⟩ := decodeF4_eq_ok_iff.1 h
    refine ⟨rfl, ?_⟩
    rw [encodeNat, Tap.code_ofCode hlt]
    omega
  | 0x11, hop, h =>
    obtain ⟨hlt, rfl⟩ := decodeFSTR_eq_ok_iff.1 h
    exact ⟨decide_eq_true (Nat.le_of_lt_succ hlt), by rw [encodeNat]; omega⟩
  | n + 0x13, _, h => cases h

/-- Settles O2: the number of the instruction is the word's, format by format. -/
theorem encodeOfDecodedIsTheWord : Obligations.EncodeOfDecodedIsTheWord := by
  intro w i h
  obtain ⟨hwf, hnat⟩ := toNat_of_decode h
  exact ⟨hwf, BitVec.eq_of_toNat_eq ((toNat_encode hwf).trans hnat)⟩

end Sys2Proof
end

section
/-! The opcode table (30_encoding R83 to R85): which words a row selects, and that a word is illegal when no row selects
it. -/

namespace Sys2Proof

open Sys2Proof.Laws Sys2Proof.Stated

/-- How many operand bits follow the opcode in the format of each opcode (R81 to R83). -/
def operandBits : Nat → Nat
  | 0x01 => 27
  | 0x04 => 2
  | 0x05 | 0x0B => 1
  | 0x07 | 0x08 | 0x09 | 0x10 | 0x12 => 4
  | 0x0A => 8
  | 0x11 => 10
  | _ => 0

/-- A legal opcode leaves the reserved bits to check: `SCAN` has none (R82, R85). -/
theorem decode_eq_whenZero {w : CmdWord} (h : w.toNat % 32 < 0x13) :
    ∃ i, decode w = whenZero (field w 31 (5 + operandBits (w.toNat % 32))) i := by
  have hscan : ∀ i, whenZero (field w 31 32) i = .ok i := fun i =>
    whenZero_eq_ok_iff.2 ⟨(field_reserved_eq_zero_iff (k := 27) (by decide)).2 (by omega), rfl⟩
  unfold decode
  rw [field_opcode]
  generalize w.toNat % 32 = op at h
  match op, h with
  | 0x01, _ => exact ⟨_, (hscan _).symm⟩
  | 0x00, _ | 0x02, _ | 0x03, _ | 0x04, _ | 0x05, _ | 0x06, _ | 0x07, _ | 0x08, _ | 0x09, _ | 0x0A, _ | 0x0B, _
  | 0x0C, _ | 0x0D, _ | 0x0E, _ | 0x0F, _ | 0x10, _ | 0x11, _ | 0x12, _ => exact ⟨_, rfl⟩
  | n + 0x13, h => omega

theorem opcode_eq_of_decode {w : CmdWord} {i : Instr} (h : decode w = .ok i) : i.opcode = w.toNat % 32 := by
  rw [← encodeNat_mod_32, (toNat_of_decode h).2]

theorem opcode_lt_of_decode {w : CmdWord} {i : Instr} (h : decode w = .ok i) : w.toNat % 32 < 0x13 := by
  obtain ⟨hwf, hnat⟩ := toNat_of_decode h
  rw [← hnat]
  exact (encodeNat_fits i hwf).2

/-- A word is a command when its opcode is legal and its reserved bits are zero (R84, R85). -/
theorem decodable_iff (w : CmdWord) :
    (∃ i, decode w = .ok i) ↔ w.toNat % 32 < 0x13 ∧ w.toNat / 32 < 2 ^ operandBits (w.toNat % 32) := by
  have hbits : operandBits (w.toNat % 32) ≤ 27 := by
    unfold operandBits
    split <;> decide
  constructor
  · rintro ⟨i, hi⟩
    have hop := opcode_lt_of_decode hi
    obtain ⟨j, hj⟩ := decode_eq_whenZero hop
    exact ⟨hop, (field_reserved_eq_zero_iff hbits).1 (whenZero_eq_ok_iff.1 (hj.symm.trans hi)).1⟩
  · rintro ⟨hop, hlt⟩
    obtain ⟨j, hj⟩ := decode_eq_whenZero hop
    exact ⟨j, hj.trans (whenZero_eq_ok_iff.2 ⟨(field_reserved_eq_zero_iff hbits).2 hlt, rfl⟩)⟩

/-! ### Masks -/

/-- The mask of a format with `k` operand bits: the opcode and the bits above the operands. -/
def rowMask (k : Nat) : CmdWord := (BitVec.allOnes 5).setWidth 32 ||| (BitVec.allOnes 32 <<< (5 + k))

theorem toNat_and_rowMask (w : CmdWord) (k : Nat) :
    (w &&& rowMask k).toNat = 2 ^ (5 + k) * (w.toNat / 2 ^ (5 + k)) + w.toNat % 2 ^ 5 := by
  have hop : w.toNat % 2 ^ 5 < 2 ^ (5 + k) :=
    (Nat.mod_lt _ (by decide)).trans_le (Nat.pow_le_pow_right (by decide) (by omega))
  rw [Nat.two_pow_add_eq_or_of_lt hop]
  apply Nat.eq_of_testBit_eq
  intro i
  simp only [rowMask, BitVec.testBit_toNat, BitVec.getLsbD_and, BitVec.getLsbD_or, BitVec.getLsbD_setWidth,
    BitVec.getLsbD_shiftLeft, BitVec.getLsbD_allOnes, Nat.testBit_or, Nat.testBit_two_pow_mul,
    Nat.testBit_div_two_pow, Nat.testBit_mod_two_pow]
  by_cases hi : i < 32
  · have hsub : i - (5 + k) < 32 := by omega
    by_cases hk : 5 + k ≤ i
    · have hlow : ¬ i < 5 := by omega
      simp [hi, hk, hsub, hlow, Nat.not_lt.2 hk]
    · simp [hi, hk, Nat.not_le.1 hk, Bool.and_comm]
  · have hbit : w.getLsbD i = false := BitVec.getLsbD_of_ge w i (by omega)
    by_cases hk : 5 + k ≤ i
    · simp [hbit, Nat.sub_add_cancel hk]
    · simp [hbit, hk]

/-- A row with `k` operand bits selects the words with its opcode whose operand bits make a number below `2 ^ k`. -/
theorem and_rowMask_eq_iff (w p : CmdWord) (k : Nat) (hp : p.toNat < 32) :
    w &&& rowMask k = p ↔ w.toNat % 32 = p.toNat ∧ w.toNat / 32 < 2 ^ k := by
  have hpow : 32 ≤ 2 ^ (5 + k) := show 2 ^ 5 ≤ _ from Nat.pow_le_pow_right (by decide) (by omega)
  have hdiv : w.toNat / 32 < 2 ^ k ↔ w.toNat / 2 ^ (5 + k) = 0 := by
    rw [Nat.pow_add, ← Nat.div_div_eq_div_mul, Nat.div_eq_zero_iff_lt (by positivity)]
  rw [← BitVec.toNat_inj, toNat_and_rowMask, hdiv]
  cases w.toNat / 2 ^ (5 + k) with
  | zero => omega
  | succ q =>
    rw [Nat.mul_succ]
    omega

/-- What the table's rows have in common. -/
theorem row_of_mem {row : OpcodeRow} (h : row ∈ opcodeTable) :
    row.pattern.toNat < 0x13 ∧ row.mask = rowMask (operandBits row.pattern.toNat) := by
  revert row
  decide

/-- A row selects the commands with its opcode (R83 to R85). -/
theorem row_selects_iff {row : OpcodeRow} (h : row ∈ opcodeTable) (w : CmdWord) :
    w &&& row.mask = row.pattern ↔ w.toNat % 32 = row.pattern.toNat ∧ ∃ i, decode w = .ok i := by
  obtain ⟨hop, hmask⟩ := row_of_mem h
  rw [hmask, and_rowMask_eq_iff w _ _ (by omega), decodable_iff]
  refine and_congr_right fun hw => ?_
  rw [hw]
  simp [hop]

theorem mnemonic_eq_iff {row : OpcodeRow} (h : row ∈ opcodeTable) (i : Instr) :
    i.mnemonic = row.mnemonic ↔ i.opcode = row.pattern.toNat := by
  revert row
  cases i <;> simp only [Instr.mnemonic, Instr.opcode] <;> decide

theorem exists_row (i : Instr) : ∃ row ∈ opcodeTable, i.mnemonic = row.mnemonic := by
  cases i <;> simp [opcodeTable, Instr.mnemonic]

/-! ### Operands -/

theorem toNat_extractLsb'_eq {v : Nat} (w : BitVec v) (lo n : Nat) :
    (w.extractLsb' lo n).toNat = w.toNat / 2 ^ lo % 2 ^ n := by
  rw [BitVec.extractLsb'_toNat, Nat.shiftRight_eq_div_pow]

theorem eq_getLsbD_of_toNat {v k : Nat} {w : BitVec v} {b : Bool} (h : w.toNat / 2 ^ k % 2 = b.toNat) :
    b = w.getLsbD k := by
  rw [BitVec.getLsbD, Nat.testBit_eq_decide_div_mod_eq, h]
  cases b <;> rfl

/-- The operands a word decodes to are its fields: they are those of the number it holds. -/
theorem fieldsAre_of_decode {w : CmdWord} {i : Instr} (h : decode w = .ok i) : fieldsAre w i := by
  obtain ⟨hwf, hnat⟩ := toNat_of_decode h
  cases i with
  | init | pininit | escape | check | setidle | e2wtest | e2w | oscan1 => trivial
  | scan ir e hasOut hasIn nf n =>
    simp only [Instr.WellFormed, Instr.wellFormed, Bool.and_eq_true, decide_eq_true_eq] at hwf
    have hir := Bool.toNat_lt ir
    have he := FitsWord.tap_code_lt e
    have hout := Bool.toNat_lt hasOut
    have hin := Bool.toNat_lt hasIn
    simp only [fieldsAre, toNat_extractLsb'_eq]
    rw [encodeNat] at hnat
    exact ⟨eq_getLsbD_of_toNat (by omega), by omega, eq_getLsbD_of_toNat (by omega), eq_getLsbD_of_toNat (by omega),
      by omega, by omega⟩
  | cycle tms tdi =>
    have htms := Bool.toNat_lt tms
    have htdi := Bool.toNat_lt tdi
    rw [encodeNat] at hnat
    exact ⟨eq_getLsbD_of_toNat (by omega), eq_getLsbD_of_toNat (by omega)⟩
  | fmtsw target =>
    have hbit : w.toNat / 2 ^ 5 % 2 = (target == .oscan1).toNat := by
      rw [← hnat]
      cases target <;> rfl
    rw [fieldsAre, ← eq_getLsbD_of_toNat hbit]
    cases target <;> rfl
  | wantres value =>
    have hvalue := Bool.toNat_lt value
    rw [encodeNat] at hnat
    exact eq_getLsbD_of_toNat (by omega)
  | zbs n | nzbs n | ecm n =>
    have hn : n < 16 := of_decide_eq_true hwf
    rw [encodeNat] at hnat
    rw [fieldsAre, toNat_extractLsb'_eq]
    omega
  | twopart opcode operand =>
    simp only [Instr.WellFormed, Instr.wellFormed, Bool.and_eq_true, decide_eq_true_eq] at hwf
    rw [encodeNat] at hnat
    simp only [fieldsAre, toNat_extractLsb'_eq]
    omega
  | tapmove state | settap state =>
    have hcode := FitsWord.tap_code_lt state
    rw [encodeNat] at hnat
    rw [fieldsAre, toNat_extractLsb'_eq]
    omega
  | trans len =>
    have hlen : len ≤ 1023 := of_decide_eq_true hwf
    rw [encodeNat] at hnat
    rw [fieldsAre, toNat_extractLsb'_eq]
    omega

/-! ### The statements -/

/-- Settles O3: a row selects the commands with its opcode, a command's mnemonic is that of its opcode's row, and the
rows' opcodes differ. -/
theorem decoderAgreesWithOpcodeTable : Obligations.DecoderAgreesWithOpcodeTable := by
  refine ⟨fun w i h => ⟨fieldsAre_of_decode h, exists_row i⟩, fun w row hrow => ?_, ?_⟩
  · rw [row_selects_iff hrow]
    constructor
    · rintro ⟨i, hi, hname⟩
      exact ⟨(opcode_eq_of_decode hi).symm.trans ((mnemonic_eq_iff hrow i).1 hname), i, hi⟩
    · rintro ⟨hop, i, hi⟩
      exact ⟨i, hi, (mnemonic_eq_iff hrow i).2 ((opcode_eq_of_decode hi).trans hop)⟩
  · have hdiffer : opcodeTable.Pairwise fun a b => a.pattern.toNat ≠ b.pattern.toNat := by decide
    refine hdiffer.imp_of_mem fun {a b} ha hb hne w => ?_
    rw [row_selects_iff ha, row_selects_iff hb]
    rintro ⟨⟨hopa, -⟩, hopb, -⟩
    exact hne (hopa.symm.trans hopb)

/-- Settles O4: each word is the number of its command. -/
theorem sampleWordsDecode : Obligations.SampleWordsDecode := by
  refine ⟨?_, ?_, ?_, ?_, ?_, ?_, ?_, ?_, ?_, ?_, ?_⟩ <;> exact decode_of_toNat rfl rfl

end Sys2Proof
end

section
/-! What a step does with the word it takes (30_encoding R80, R84, R85; 60_exceptions R233). -/

namespace Sys2Proof.Machine

theorem accept_faulted {s : State} (r : Request) (rest : List Request) (hfault : s.fault = 0) :
    (s.accept r rest).faulted = false := by
  simp [State.faulted, State.accept, hfault]

/-- R231, R233: a word that is no command is rejected with the word as information. -/
theorem step_of_not_decodable {s : State} {r : Request} {rest : List Request} (hport : s.cmdPort = r :: rest)
    (hfault : s.fault = 0) (hill : ¬ ∃ i, decode r.word = .ok i) :
    step s = .next (reject .rejIllegalCmd r.word.toNat (s.accept r rest)) := by
  have hf := accept_faulted r rest hfault
  cases hd : decode r.word with
  | ok i => exact absurd ⟨i, hd⟩ hill
  | error e => simp [step, hport, admission, hf, hd]

/-- R233: a command runs once admission lets it, from the state that has taken its request. -/
theorem step_of_admitted {s : State} {r : Request} {rest : List Request} {i : Instr} (hport : s.cmdPort = r :: rest)
    (hfault : s.fault = 0) (hd : decode r.word = .ok i) (hi : (s.initialized || Instr.admittedUninit i) = true) :
    step s = exec i (s.accept r rest) := by
  have hf := accept_faulted r rest hfault
  have hrun : admission r.word (s.accept r rest) = .run i := by
    simp only [admission, hf, hd, Bool.false_eq_true, if_false]
    exact if_pos hi
  simp only [step, hport, hrun]

/-- Settles O5: an opcode from 0x13 is no command's. -/
theorem reservedOpcodeIsRejected : Obligations.ReservedOpcodeIsRejected :=
  fun _ _ _ hport hfault hop =>
    step_of_not_decodable hport hfault fun ⟨_, hi⟩ => absurd (opcode_lt_of_decode hi) (Nat.not_lt.2 hop)

/-- Settles O6: of the words with its opcode, a row selects the commands. -/
theorem reservedBitIsRejected : Obligations.ReservedBitIsRejected := by
  intro s r rest hport hfault row hrow hop hselect
  have hlt := (row_of_mem hrow).1
  rw [Nat.mod_eq_of_lt (by omega : row.pattern.toNat < 32)] at hop
  exact step_of_not_decodable hport hfault fun hdec => hselect ((row_selects_iff hrow _).2 ⟨hop, hdec⟩)

/-- Settles O7, by the last of the three checks of admission. -/
theorem stepRunsTheDecodedCommand : Obligations.StepRunsTheDecodedCommand := by
  intro s r rest i hport hfault hd hadmit
  refine step_of_admitted hport hfault hd ?_
  obtain hinit | rfl | ⟨t, rfl⟩ := hadmit
  · rw [hinit, Bool.true_or]
  · exact Bool.or_true _
  · exact Bool.or_true _

end Sys2Proof.Machine
end

section
/-! Every command ends with one result (30_encoding R101). -/

namespace Sys2Proof.Machine

open Sys2Proof.Stated

/-- Only the end of a command writes on the result port. -/
theorem results_closed (x : List Result) : Closed fun u => u.results = x where
  emit _ _ h := h
  afterRead _ _ h := h
  setScanFormat _ _ h := h
  setWantResult _ _ h := h
  setBitCount _ _ h := h
  setTapState _ _ h := h
  setInitialized _ h := h
  clearPending _ h := h

/-- Beside a code other than `OK` the value is 0; `WANTRES` always completes (log entry 15). -/
theorem resultValue_of_ne_ok {i : Instr} {c : ResultCode} (hi : ∀ v, i ≠ .wantres v) (hc : c ≠ .ok) (s : State) :
    resultValue i c s = false := by
  cases i with
  | wantres v => exact absurd rfl (hi v)
  | e2wtest => exact beq_false_of_ne hc
  | _ => rfl

theorem exec_results (i : Instr) (s : State) :
    ∃ (t : State) (code : ResultCode), exec i s = .next t ∧
      t.results = s.results ++ [⟨code, resultValue i code s⟩] := by
  by_cases hi : ∃ v, i = .wantres v
  · obtain ⟨v, rfl⟩ := hi
    exact ⟨_, .ok, rfl, rfl⟩
  · have hvalue := fun c (hc : c ≠ .ok) => resultValue_of_ne_ok (c := c) (not_exists.1 hi) hc s
    obtain ⟨t, ht, hend⟩ := (results_closed s.results).exec i rfl fun ir goal ho hin nf n _ _ => by rw [scanRun_eq]
    refine ⟨t, ?_⟩
    cases hend with
    | completed u hu => exact ⟨.ok, ht, congrArg (· ++ _) hu⟩
    | rejected c k hc =>
      refine ⟨c, ht, ?_⟩
      rw [hvalue c (by rintro rfl; cases hc)]
      rfl
    | faulted u c k hc hu =>
      refine ⟨c, ht, ?_⟩
      rw [hvalue c (by rintro rfl; simp at hc)]
      exact congrArg (· ++ _) hu

/-- Settles O12, by how each command ends. -/
theorem everyCommandReturnsOneResult : Obligations.EveryCommandReturnsOneResult :=
  ⟨exec_results, rfl, rfl, rfl, rfl, rfl, rfl, rfl, rfl, rfl⟩

end Sys2Proof.Machine
end

section
/-! The string of `TRANS` is validated before anything is sent (30_encoding R89, R90). -/

namespace Sys2Proof.Machine

open Sys2Proof.Stated

theorem ofByte_isNone_iff (b : Byte) : (TmsChar.ofByte b).isNone = true ↔ ¬ tmsByte b := by
  unfold TmsChar.ofByte tmsByte
  split_ifs with h0 h1 hsep
  · exact ⟨nofun, fun h => absurd (.inl h0) h⟩
  · exact ⟨nofun, fun h => absurd (.inr (.inl h1)) h⟩
  · exact ⟨nofun, fun h => absurd (.inr (.inr hsep)) h⟩
  · exact ⟨fun _ h => h.elim h0 (·.elim h1 hsep), fun _ => rfl⟩

theorem firstBad_eq_findIdx? (bs : List Byte) : firstBad bs = bs.findIdx? fun b => (TmsChar.ofByte b).isNone := by
  induction bs with
  | nil => rfl
  | cons b bs ih =>
    rw [List.findIdx?_cons, firstBad, ih]
    cases TmsChar.ofByte b <;> rfl

/-- R90: the index reported is that of the first byte that is no character. -/
theorem firstBad_readBytes {sp : Space} {len k : Nat} {s : State} (hk : k < len) (hbad : ¬ tmsByte (readByte sp k s))
    (hgood : ∀ j < k, tmsByte (readByte sp j s)) : firstBad (readBytes sp 0 len s) = some k := by
  rw [firstBad_eq_findIdx?, List.findIdx?_eq_some_iff_getElem]
  refine ⟨by simpa [readBytes] using hk, ?_, fun j hj => ?_⟩
  · rw [ofByte_isNone_iff]
    simpa [readBytes] using hbad
  · rw [ofByte_isNone_iff]
    simpa [readBytes] using hgood j hj

/-- Settles O23: the rejection reports the first bad index, and the empty string has none. -/
theorem transRejectsABadString : Obligations.TransRejectsABadString := by
  intro s
  refine ⟨fun len k hk hbad hgood => ?_, rfl⟩
  have h : exec (.trans len) s = execTrans len s := rfl
  rw [h, execTrans, firstBad_readBytes hk hbad hgood]
  rfl

end Sys2Proof.Machine
end

section
/-! The status word (30_encoding R100). -/

namespace Sys2Proof.Machine

open Sys2Proof.Laws

/-- The fields of the status word do not overlap and fit its 64 bits. -/
theorem statusWord_toNat (s : State) :
    s.statusWord.toNat =
      s.initialized.toNat + s.scanFormat.code * 2 ^ 1 + s.wantResult.toNat * 2 ^ 2 + s.tapState.code * 2 ^ 3
        + s.fault.toNat * 2 ^ 8 + s.txBitCount.toNat * 2 ^ 16 := by
  have hinit := Bool.toNat_lt s.initialized
  have hformat := FitsWord.format_code_lt s.scanFormat
  have hwant := Bool.toNat_lt s.wantResult
  have htap := FitsWord.tap_code_lt s.tapState
  rw [State.statusWord, BitVec.toNat_ofNat, Nat.mod_eq_of_lt]
  omega

/-- Settles O56: each field is the digits of the word's number at its place. -/
theorem statusWordShowsTheRegisters : Obligations.StatusWordShowsTheRegisters := by
  intro s
  have hword := statusWord_toNat s
  have hinit := Bool.toNat_lt s.initialized
  have hformat := FitsWord.format_code_lt s.scanFormat
  have hwant := Bool.toNat_lt s.wantResult
  have htap := FitsWord.tap_code_lt s.tapState
  have hcode : s.scanFormat.code = (s.scanFormat == .oscan1).toNat := by cases s.scanFormat <;> rfl
  have hbit : false.toNat = 0 := rfl
  have hhalf : (0 : BitVec 16).toNat = 0 := rfl
  refine ⟨(eq_getLsbD_of_toNat ?_).symm, (eq_getLsbD_of_toNat ?_).symm, (eq_getLsbD_of_toNat ?_).symm, ?_,
    (eq_getLsbD_of_toNat ?_).symm, BitVec.eq_of_toNat_eq ?_, BitVec.eq_of_toNat_eq ?_, BitVec.eq_of_toNat_eq ?_,
    fun _ _ _ _ => rfl⟩ <;>
  simp only [toNat_extractLsb'_eq, hword, hbit, hhalf] <;> omega

end Sys2Proof.Machine
end

section
/-! What the tables fix of the tokens' bytes (30_encoding R93 to R97). -/

namespace Sys2Proof.Machine

/-- Settles O21: the constraints that the OPEN tables carry. -/
theorem tokenBytesMeetTheirConstraints : Obligations.TokenBytesMeetTheirConstraints :=
  ⟨Config.pinInitTable.ne_nil, Config.escapeTable.length_eq, Config.formatSwitchTable.length_eq,
    Config.formatSwitchTable.differ, Config.checkTable.ne_nil, Config.cycleTable.inj,
    Config.cycleTable.len, Config.cycleTable.len_pos, Config.cycleTable.length_eq⟩

end Sys2Proof.Machine
end

section
/-! What each command of the packet encoder does to the whole state (40_packet_encoder R120 to R124). -/

namespace Sys2Proof.Machine

open Sys2Proof.Stated

theorem exec_pininit (s : State) : exec .pininit s = .next (endCommand .ok false (pinInit s)) := rfl
theorem exec_escape (s : State) : exec .escape s = .next (endCommand .ok false (escapeSequence s)) := rfl
theorem exec_cycle (tms tdi : Bool) (s : State) :
    exec (.cycle tms tdi) s = .next (endCommand .ok false (emitCycle tms tdi s)) := rfl
theorem exec_fmtsw (f : ScanFormat) (s : State) :
    exec (.fmtsw f) s = .next (endCommand .ok false (formatSwitch f s)) := rfl
theorem exec_check (s : State) : exec .check s = .next (endCommand .ok false (checkPacket s)) := rfl

/-- `ESCAPE` (R121): its token answers no byte, so none comes to be pending (10_state R41). -/
theorem escapeSequence_eq (s : State) :
    escapeSequence s = { s with chan := s.chan ++ [.write .esc], physSet := Tap.all } := rfl

/-- One cycle (R122): its token answers one byte, which stays pending (10_state R41). -/
theorem emitCycle_eq (tms tdi : Bool) (s : State) :
    emitCycle tms tdi s =
      { s with
        chan := s.chan ++ [.write (.cyc s.scanFormat s.wantResult tms tdi)]
        physSet := physStep s.physSet tms
        adapterPending := s.adapterPending + 1 } := rfl

/-- `FMTSW` to another format (R123). -/
theorem formatSwitch_of_ne {s : State} {f : ScanFormat} (h : s.scanFormat ≠ f) :
    formatSwitch f s = { s with chan := s.chan ++ [.write (.fsw f)], scanFormat := f } := by
  rw [formatSwitch_eq, if_neg h]

/-- The steps of `CHECK` are its events, from any state (R124). -/
theorem checkPacket_eq (s : State) : checkPacket s = afterEvents (checkEvents s.scanFormat s.wantResult) s := by
  have h := checkPacket_reached s s.scanFormat s.wantResult s.tapState []
  rwa [reached_self] at h

/-- The read of `PININIT` is of as many bytes as its token answers: it is never short (10_state R41), leaves
as many bytes pending as before, and is misaligned when these are not 0 (70_reset_and_hazards R266). -/
theorem pinInit_eq (s : State) :
    pinInit s =
      { s with
        chan := s.chan ++ [.write .pinInit, .read 1]
        physSet := Tap.all
        chanMisaligned := s.chanMisaligned || s.adapterPending != 0
        adapterIn := s.adapterIn.drop 1
        drawn := s.drawn + (1 - s.adapterIn.length) } := by
  have hleft : (s.adapterPending + 1 != 1) = (s.adapterPending != 0) := by
    rw [Bool.eq_iff_iff, bne_iff_ne, bne_iff_ne]
    omega
  simp [pinInit, emit, afterRead, physAfter, Token.responses, hleft]

/-- Settles O19: the switch to another format is one token and one register, to the same format no step at all. -/
theorem formatSwitchIsIdempotent : Obligations.FormatSwitchIsIdempotent := by
  refine ⟨rfl, rfl, fun s f => ⟨fun hne => ?_, fun heq => ?_⟩⟩
  · rw [exec_fmtsw, formatSwitch_of_ne hne]
    rfl
  · rw [exec_fmtsw, formatSwitch_same heq]
    rfl

/-- Settles O20, by the events of `CHECK` in the format of the link. -/
theorem checkSendsTheDummyCycleInOscan1 : Obligations.CheckSendsTheDummyCycleInOscan1 := by
  intro s
  rw [exec_check, checkPacket_eq]
  rfl

/-- Settles O16: one token, and the read of the byte it answers. -/
theorem pininitEmitsAndReadsItsStatus : Obligations.PininitEmitsAndReadsItsStatus := by
  intro s
  rw [exec_pininit, pinInit_eq]
  rfl

/-- Settles O17: the command word, and one token with no byte to read. -/
theorem escapeEmitsItsToken : Obligations.EscapeEmitsItsToken := by
  refine ⟨rfl, fun s => ?_⟩
  rw [exec_escape, escapeSequence_eq]
  rfl

/-- Settles O18: one token, whose byte stays pending. -/
theorem cycleEmitsOneCycle : Obligations.CycleEmitsOneCycle := by
  intro s tms tdi
  rw [exec_cycle, emitCycle_eq]
  rfl

end Sys2Proof.Machine
end

section
/-! What each command of the bit-scan sequencer does to the whole state when its counts are in range (41_bitscan R140 to
R145). -/

namespace Sys2Proof.Machine

open Sys2Proof.Stated

theorem exec_trans (len : Nat) (s : State) : exec (.trans len) s = execTrans len s := rfl
theorem exec_zbs (r : Nat) (s : State) : exec (.zbs r) s = .next ((zeroBitScan r s).finish false) := rfl
theorem exec_nzbs (a : Nat) (s : State) : exec (.nzbs a) s = .next ((nonZeroBitScan a s).finish false) := rfl
theorem exec_ecm (l : Nat) (s : State) : exec (.ecm l) s = .next ((enterControlMode l s).finish false) := rfl
theorem exec_twopart (o p : Nat) (s : State) :
    exec (.twopart o p) s = .next ((twoPart o p s).finish false) := rfl

/-- The state after the cycles of `syms`, each at TDI 0 and its byte read at once. -/
def State.sent (s : State) (syms : List Bool) : State :=
  afterEvents (immediateEvents s.scanFormat s.wantResult syms) s

theorem transitionsImmediate_eq_sent (str : TmsString) (s : State) : transitionsImmediate str s = s.sent str.syms :=
  transitionsImmediate_eq str s

theorem sent_sent (s : State) (a b : List Bool) : (s.sent a).sent b = s.sent (a ++ b) := by
  unfold State.sent
  rw [immediateEvents_append, afterEvents_append]
  rfl

/-- The result port and the channel do not touch each other. -/
theorem sent_endCommand (c : ResultCode) (v : Bool) (s : State) (syms : List Bool) :
    (endCommand c v s).sent syms = endCommand c v (s.sent syms) := rfl

/-! ### `TRANS` -/

/-- The model reads a string in two passes, bytes to characters to TMS values; the rule reads it in one (R89). -/
theorem tmsOfBytes_syms (bs : List Byte) : (tmsOfBytes bs).syms = byteSyms bs := by
  unfold tmsOfBytes TmsString.syms byteSyms
  rw [List.filterMap_filterMap]
  congr 1
  funext b
  unfold TmsChar.ofByte
  split_ifs <;> rfl

theorem readBytes_zero (sp : Space) (len : Nat) (s : State) :
    readBytes sp 0 len s = (List.range len).map fun k => readByte sp k s := by
  simp [readBytes]

/-- A string of valid bytes has no first bad byte (R90). -/
theorem firstBad_readBytes_none {sp : Space} {len : Nat} {s : State}
    (h : ∀ k < len, tmsByte (readByte sp k s)) : firstBad (readBytes sp 0 len s) = none := by
  rw [firstBad_eq_findIdx?, List.findIdx?_eq_none_iff, readBytes_zero]
  intro b hb
  obtain ⟨k, hk, rfl⟩ := List.mem_map.1 hb
  rw [← Bool.not_eq_true, ofByte_isNone_iff, not_not]
  exact h k (List.mem_range.1 hk)

theorem exec_trans_valid {len : Nat} {s : State} (h : ∀ k < len, tmsByte (readByte .str k s)) :
    exec (.trans len) s =
      .next (endCommand .ok false (s.sent (byteSyms ((List.range len).map fun k => readByte .str k s)))) := by
  rw [exec_trans, execTrans, firstBad_readBytes_none h]
  simp only [transitionsImmediate_eq_sent, tmsOfBytes_syms, readBytes_zero]

/-- Settles O22: no byte is bad, and the characters' TMS values are the bytes'. -/
theorem transSendsItsString : Obligations.TransSendsItsString := by
  intro s len h
  rw [exec_trans_valid h]
  rfl

/-! ### `ZBS`, `NZBS` and `ECM` -/

theorem exec_zbs_inRange {r : Nat} (h : r ≤ Config.maxBitscan) (s : State) :
    exec (.zbs r) s = .next (endCommand .ok false (s.sent (zbsSyms r))) := by
  rw [exec_zbs, zeroBitScan_inRange h, zbsStr_eq]
  rfl

theorem exec_nzbs_inRange {a : Nat} (h : a ≤ Config.maxBitscan) (s : State) :
    exec (.nzbs a) s = .next (endCommand .ok false (s.sent (nzbsSyms a))) := by
  rw [exec_nzbs, nonZeroBitScan_inRange h, nzbsStr_eq]
  rfl

theorem exec_ecm_inRange {l : Nat} (h : l ≤ Config.maxBitscan) (s : State) :
    exec (.ecm l) s = .next (endCommand .ok false (s.sent (ecmSyms l))) := by
  have hrun := enterControlMode_reached s s.scanFormat s.wantResult s.tapState [] h
  rw [reached_self] at hrun
  rw [exec_ecm, hrun]
  rfl

/-- Settles O24, by the symbols of `ZBS_STR`. -/
theorem zeroBitScanSendsItsString : Obligations.ZeroBitScanSendsItsString := by
  intro s r h
  exact ⟨exec_zbs_inRange h s, zbsSyms_length r⟩

/-- Settles O25, by the symbols of `NZBS_STR`. -/
theorem nonZeroBitScanSendsItsString : Obligations.NonZeroBitScanSendsItsString := by
  intro s a h
  exact ⟨exec_nzbs_inRange h s, nzbsSyms_length a⟩

/-- Settles O27, by the steps of `ECM` as their events. -/
theorem enterControlModeSendsItsParts : Obligations.EnterControlModeSendsItsParts := by
  intro s l h
  exact ⟨exec_ecm_inRange h s, ecmSyms_length l⟩

/-- A `STR` that begins with "000" gives `TRANS` of length 3 the lock string. -/
theorem exec_trans_lock {s : State} (h : ∀ k < 3, readByte .str k s = 0x30) :
    exec (.trans 3) s = .next (endCommand .ok false (s.sent lockSyms)) := by
  have hbytes : (List.range 3).map (fun k => readByte .str k s) = List.replicate 3 0x30 :=
    List.map_eq_replicate_iff.2 fun k hk => h k (List.mem_range.1 hk)
  have hsyms : byteSyms (List.replicate 3 0x30) = lockSyms := by decide
  rw [exec_trans_valid fun k hk => .inl (h k hk), hbytes, hsyms]

/-- Settles O28: the events of the three commands are those of `ECM`, cut in three, and only their results differ. -/
theorem enterControlModeIsItsThreeCommands : Obligations.EnterControlModeIsItsThreeCommands := by
  intro s l hl hstr
  refine ⟨_, _, _, _, exec_ecm_inRange hl s, exec_zbs_inRange hl s, exec_nzbs_inRange (by decide) _,
    exec_trans_lock hstr, ?_⟩
  rw [sent_endCommand, sent_endCommand, sent_endCommand, sent_sent, sent_sent, ecmSyms, List.append_assoc]
  rfl

/-! ### `TWOPART` -/

theorem twoPart_inRange {o p : Nat} (ho : o ≤ Config.maxBitscan) (hp : p ≤ Config.maxBitscan) (s : State) :
    twoPart o p s = .done (afterEvents (twoPartEvents s.scanFormat s.wantResult o p) s) := by
  have h := twoPart_reached s s.scanFormat s.wantResult s.tapState [] ho hp
  rwa [reached_self] at h

/-- R236: the first part stays emitted when the operand is out of range. -/
theorem twoPart_operand_overRange {o p : Nat} (ho : o ≤ Config.maxBitscan) (hp : Config.maxBitscan < p) (s : State) :
    twoPart o p s = raiseFault .faultNzbsRange p (s.sent (nzbsSyms o)) := by
  rw [twoPart, nonZeroBitScan_inRange ho, Run.andThen_done, nonZeroBitScan_overRange hp, nzbsStr_eq]
  rfl

/-- Settles O29, by the steps of `TWOPART` as their events. -/
theorem twoPartSendsItsParts : Obligations.TwoPartSendsItsParts := by
  intro s o p ho hp
  rw [exec_twopart, twoPart_inRange ho hp]
  rfl

/-- Settles O30: the first bit-scan completes and the second takes the fault. -/
theorem twoPartFaultsAfterItsFirstPart : Obligations.TwoPartFaultsAfterItsFirstPart := by
  intro s o p ho hp
  rw [exec_twopart, twoPart_operand_overRange ho hp]
  rfl

end Sys2Proof.Machine
end

section
/-! The TAP states that the bit-scan strings pass from IDLE (41_bitscan R146, R147). -/

namespace Sys2Proof.Machine

open Sys2Proof.Stated

theorem tapTrace_append (p : Tap) (a b : List Bool) :
    tapTrace p (a ++ b) = tapTrace p a ++ tapTrace (tapRun p a) b := by
  induction a generalizing p with
  | nil => rfl
  | cons t a ih => exact congrArg (tapNext p t :: ·) (ih (tapNext p t))

/-- Zeros stay in a state in which TMS 0 loops. -/
theorem tapTrace_replicate_false {p : Tap} (h : tapNext p false = p) (n : Nat) :
    tapTrace p (List.replicate n false) = List.replicate n p := by
  induction n with
  | zero => rfl
  | succ n ih => rw [List.replicate_succ, tapTrace, h, ih, List.replicate_succ]

/-- Each zero-bit scan passes Capture-DR and Exit1-DR, and leads to Update-DR from IDLE and from Update-DR alike. -/
theorem tapTrace_zbsSyms {p : Tap} (hp : p = .idle ∨ p = .drUpdate) (r : Nat) :
    tapTrace p (zbsSyms r) =
      (List.replicate r [Tap.drSelect, .drCapture, .drExit1, .drUpdate]).flatten ++ [.idle] := by
  induction r generalizing p with
  | zero => rcases hp with rfl | rfl <;> rfl
  | succ r ih =>
    have hsyms : zbsSyms (r + 1) = [true, false, true, true] ++ zbsSyms r := rfl
    have hend : tapRun p [true, false, true, true] = .drUpdate := by rcases hp with rfl | rfl <;> rfl
    have hpass : tapTrace p [true, false, true, true] = [.drSelect, .drCapture, .drExit1, .drUpdate] := by
      rcases hp with rfl | rfl <;> rfl
    rw [hsyms, tapTrace_append, hend, hpass, ih (.inr rfl)]
    rfl

/-- The first zero leads from Capture-DR to Shift-DR, and the others stay there. -/
theorem tapTrace_nzbsSyms (a : Nat) :
    tapTrace .idle (nzbsSyms a) =
      [Tap.drSelect, .drCapture] ++ List.replicate a .drShift ++ [.drExit1, .drUpdate, .idle] := by
  cases a with
  | zero => rfl
  | succ a =>
    have hsyms : nzbsSyms (a + 1) = [true, false, false] ++ (List.replicate a false ++ [true, true, false]) := rfl
    have hend : tapRun .idle [true, false, false] = .drShift := rfl
    rw [hsyms, tapTrace_append, hend, tapTrace_append, tapTrace_replicate_false rfl, tapRun_replicate_false rfl]
    simp [tapTrace, tapNext, List.replicate_succ]

theorem shiftEdges_zbsSyms (r : Nat) : shiftEdges .idle (zbsSyms r) = 0 := by
  rw [shiftEdges, tapTrace_zbsSyms (.inl rfl), List.count_eq_zero]
  intro h
  simpa using List.mem_of_mem_dropLast h

theorem shiftEdges_nzbsSyms (a : Nat) : shiftEdges .idle (nzbsSyms a) = a := by
  have hlast : Tap.idle :: tapTrace .idle (nzbsSyms a) =
      [.idle, .drSelect, .drCapture] ++ List.replicate a .drShift ++ [.drExit1, .drUpdate] ++ [.idle] := by
    rw [tapTrace_nzbsSyms]
    simp
  rw [shiftEdges, hlast, List.dropLast_concat]
  simp

/-- Settles O31: the states passed, written out for each string. -/
theorem bitScansStayOutOfTestLogicReset : Obligations.BitScansStayOutOfTestLogicReset := by
  intro n
  refine ⟨fun t ht => ?_, tapRun_zbsSyms n, tapRun_nzbsSyms n, shiftEdges_zbsSyms n, shiftEdges_nzbsSyms n⟩
  rw [tapTrace_zbsSyms (.inl rfl), tapTrace_nzbsSyms] at ht
  simp only [List.mem_append, List.mem_flatten, List.mem_replicate] at ht
  rcases ht with (⟨_, ⟨-, rfl⟩, h⟩ | h) | (h | ⟨-, rfl⟩) | h
  case inr.inl.inr => decide
  all_goals
    revert t
    decide

end Sys2Proof.Machine
end

section
/-! The mode commands when the counts their bit-scans get are in range: the whole state, the number of cycles, and
`set_to_idle()` as the recursive procedure of the rule (42_mode R160 to R168). -/

namespace Sys2Proof.Machine

open Sys2Proof.Stated

theorem exec_wantres (v : Bool) (s : State) :
    exec (.wantres v) s = .next (endCommand .ok s.wantResult (setWantResult v s)) := rfl
theorem exec_setidle (s : State) : exec .setidle s = .next ((setToIdle s).finish false) := rfl
theorem exec_e2wtest (s : State) : exec .e2wtest s = .next ((enterTwoWireAndTest s).finish true) := rfl
theorem exec_e2w (s : State) : exec .e2w s = .next ((enterTwoWire setToIdle s).finish false) := rfl
theorem exec_oscan1 (s : State) : exec .oscan1 s = .next ((enterOscan1 s).finish false) := rfl
theorem exec_init (s : State) : exec .init s = .next ((initialise s).finish false) := rfl

/-! ### How many cycles the commands send -/

@[simp] theorem cycleCount_chk (fmt : ScanFormat) : cycleCount [.write (.chk fmt)] = 0 := rfl
@[simp] theorem cycleCount_fsw (fmt : ScanFormat) : cycleCount [.write (.fsw fmt)] = 0 := rfl

@[simp] theorem idleSyms_length : idleSyms.length = 7 := rfl
@[simp] theorem reconnectSyms_length : reconnectSyms.length = 7 := rfl

/-- Only the dummy cycle of OSCAN1 counts (40_packet_encoder R124). -/
theorem cycleCount_checkEvents (fmt : ScanFormat) (wr : Bool) :
    cycleCount (checkEvents fmt wr) = if fmt = .oscan1 then 1 else 0 := by
  cases fmt <;> rfl

theorem cycleCount_twoPartEvents (fmt : ScanFormat) (wr : Bool) (o p : Nat) :
    cycleCount (twoPartEvents fmt wr o p) = o + p + 10 + if fmt = .oscan1 then 1 else 0 := by
  cases fmt <;> simp [twoPartEvents, cycleCount_checkEvents] <;> omega

/-- Neither the check packet nor the switch of the format is a cycle. -/
theorem cycleCount_oscan1Events (p : Config.Params) (wr : Bool) :
    cycleCount (oscan1Events p .normal wr) = p.stfmt + p.oscan1Param + 10 := by
  cases h : p.oscan1Switch <;> simp [oscan1Events, cycleCount_twoPartEvents, cycleCount_checkEvents, h]

theorem cycleCount_twoWireEvents (p : Config.Params) :
    cycleCount (twoWireEvents p .normal) =
      39 + p.stfmt + p.oscan1Param + p.stmc + p.exitCmdLvl + if p.e2wTouch then 7 else 0 := by
  cases h : p.e2wTouch <;>
    simp [twoWireEvents, cycleCount_oscan1Events, cycleCount_twoPartEvents, h] <;> omega

theorem cycleCount_setIdleEvents_normal (p : Config.Params) (wr : Bool) :
    cycleCount (setIdleEvents p .normal wr) = 7 :=
  cycleCount_immediateEvents _ _ _

/-- Three idle strings, then the way back into two-wire mode (R161). -/
theorem cycleCount_setIdleEvents_oscan1 (p : Config.Params) (wr : Bool) :
    cycleCount (setIdleEvents p .oscan1 wr) =
      60 + p.stfmt + p.oscan1Param + p.stmc + p.exitCmdLvl + if p.e2wTouch then 7 else 0 := by
  simp only [setIdleEvents, cycleCount_append, cycleCount_immediateEvents, cycleCount_fsw, cycleCount_twoWireEvents,
    idleSyms_length]
  omega

theorem cycleCount_e2wEvents (p : Config.Params) :
    cycleCount (e2wEvents p .normal) =
      46 + p.stfmt + p.oscan1Param + p.stmc + p.exitCmdLvl + if p.e2wTouch then 7 else 0 := by
  rw [e2wEvents, cycleCount_append, cycleCount_setIdleEvents_normal, cycleCount_twoWireEvents]
  omega

theorem cycleCount_e2wTestEvents (p : Config.Params) :
    cycleCount (e2wTestEvents p .normal) = 42 + p.stfmt + p.oscan1Param := by
  simp only [e2wTestEvents, cycleCount_append, cycleCount_setIdleEvents_normal, cycleCount_immediateEvents,
    cycleCount_oscan1Events, ecmSyms_length, reconnectSyms_length]
  omega

/-- The rows of R168, by the procedures that send them: rows 1 and 2, `set_to_idle()`, then `E2WTEST` in NORMAL. -/
theorem initEvents_eq (p : Config.Params) :
    initEvents p =
      [.write .pinInit, .read 1, .write .esc] ++ setIdleEvents p .normal true ++ e2wTestEvents p .normal := by
  simp [initEvents, setIdleEvents, e2wTestEvents, oscan1Events, twoPartEvents, checkEvents, immediateEvents_append]

theorem cycleCount_initEvents (p : Config.Params) :
    cycleCount (initEvents p) = 49 + p.stfmt + p.oscan1Param := by
  have hstart : cycleCount [.write .pinInit, .read 1, .write .esc] = 0 := rfl
  rw [initEvents_eq, cycleCount_append, cycleCount_append, hstart, cycleCount_setIdleEvents_normal,
    cycleCount_e2wTestEvents]
  omega

/-! ### The recursion of `set_to_idle()` -/

@[simp] theorem forceIdle_scanFormat (s : State) : (forceIdle s).scanFormat = s.scanFormat :=
  (sameLink_transitionsImmediate idleStr (.refl s)).scanFormat

@[simp] theorem formatSwitch_scanFormat (f : ScanFormat) (s : State) : (formatSwitch f s).scanFormat = f := by
  rw [formatSwitch_eq]

/-- In NORMAL there is nothing to recover (R166). -/
theorem setToIdle_of_normal {s : State} (h : s.scanFormat = .normal) : setToIdle s = .done (forceIdle s) := by
  rw [setToIdle, recoverTwoWire, if_pos ((forceIdle_scanFormat s).trans h)]

/-- `E2W` in NORMAL calls `set_to_idle()` once, where it is the idle string alone (R163). -/
theorem enterTwoWire_of_normal {s : State} (h : s.scanFormat = .normal) :
    enterTwoWire setToIdle s = enterTwoWire (fun t => .done (forceIdle t)) s := by
  unfold enterTwoWire
  rw [setToIdle_of_normal (s := setWantResult false s) h]

/-- Settles O34: after the switch both nested calls see NORMAL, so the one level of the model is the recursion. -/
theorem setToIdleMeetsItsRecursion : Obligations.SetToIdleMeetsItsRecursion := by
  intro s
  show recoverTwoWire (forceIdle s) = if (forceIdle s).scanFormat = .normal then .done (forceIdle s)
    else (setToIdle (formatSwitch .normal (forceIdle s))).andThen (enterTwoWire setToIdle)
  have hformat : (formatSwitch .normal (forceIdle s)).scanFormat = .normal := formatSwitch_scanFormat _ _
  rw [setToIdle_of_normal hformat, Run.andThen_done, enterTwoWire_of_normal ((forceIdle_scanFormat _).trans hformat),
    recoverTwoWire]

/-! ### The whole state after each command -/

/-- Settles O32: the value returned is read before the register is written. -/
theorem wantResultReturnsItsOldValue : Obligations.WantResultReturnsItsOldValue := by
  refine ⟨rfl, rfl, fun s v => ?_⟩
  rw [exec_wantres]
  rfl

theorem setToIdle_inRange {s : State}
    (h : s.scanFormat = .oscan1 → ∀ n ∈ recoveryCounts s.params, n ≤ Config.maxBitscan) :
    setToIdle s = .done (s.reached s.scanFormat s.wantResult .idle
      (setIdleEvents s.params s.scanFormat s.wantResult)) := by
  have hrun := setToIdle_reached s s.scanFormat s.wantResult s.tapState [] h
  rwa [reached_self] at hrun

theorem enterOscan1_inRange {s : State} (h1 : s.params.stfmt ≤ Config.maxBitscan)
    (h2 : s.params.oscan1Param ≤ Config.maxBitscan) :
    enterOscan1 s = .done (s.reached .oscan1 s.wantResult s.tapState
      (oscan1Events s.params s.scanFormat s.wantResult)) := by
  have hrun := enterOscan1_reached s s.scanFormat s.wantResult s.tapState [] h1 h2
  rwa [reached_self] at hrun

theorem enterTwoWireAndTest_inRange {s : State}
    (h : ∀ n ∈ bringUpCounts s.params s.scanFormat .e2wtest, n ≤ Config.maxBitscan) :
    enterTwoWireAndTest s = .done (s.reached .oscan1 s.wantResult .idle (e2wTestEvents s.params s.scanFormat)) := by
  have hrun := enterTwoWireAndTest_reached s s.scanFormat s.wantResult s.tapState [] h
  rwa [reached_self] at hrun

theorem recoveryCounts_subset_e2w (p : Config.Params) (fmt : ScanFormat) :
    recoveryCounts p ⊆ bringUpCounts p fmt .e2w := by
  cases fmt <;> simp [bringUpCounts]

theorem enterTwoWire_inRange {s : State}
    (h : ∀ n ∈ bringUpCounts s.params s.scanFormat .e2w, n ≤ Config.maxBitscan) :
    enterTwoWire setToIdle s = .done (s.reached .oscan1 s.wantResult .idle (e2wEvents s.params s.scanFormat)) := by
  have hcounts : ∀ n ∈ recoveryCounts s.params, n ≤ Config.maxBitscan :=
    fun n hn => h n (recoveryCounts_subset_e2w _ _ hn)
  have hrun := enterTwoWire_reached s s.scanFormat s.wantResult s.tapState []
    (setToIdle_reached _ _ _ _ _ fun _ => hcounts) hcounts
  rwa [reached_self] at hrun

theorem reached_physSet (s : State) (fmt : ScanFormat) (wr : Bool) (tap : Tap) (e : List ChanEvent) :
    (s.reached fmt wr tap e).physSet = e.foldl physEvent s.physSet := rfl

/-- `INIT` counts its cycles from 0 (R165). -/
theorem initialise_inRange {s : State} (h1 : s.params.stfmt ≤ Config.maxBitscan)
    (h2 : s.params.oscan1Param ≤ Config.maxBitscan) :
    initialise s = .done (clearPending (setInitialized
      ((setBitCount 0 s).reached .oscan1 true .idle (initEvents s.params)))) := by
  have hcounts : ∀ n ∈ bringUpCounts s.params .normal .e2wtest, n ≤ Config.maxBitscan := by
    simp [bringUpCounts, h1, h2]
  have hnormal : ScanFormat.normal = .oscan1 → ∀ n ∈ recoveryCounts s.params, n ≤ Config.maxBitscan :=
    fun hf => nomatch hf
  rw [initialise, init_start, setToIdle_reached (setBitCount 0 s) _ _ _ _ hnormal, Run.andThen_done,
    enterTwoWireAndTest_reached (setBitCount 0 s) _ _ _ _ hcounts, Run.andDo_done, initEvents_eq]
  rfl

/-- What `INIT` leaves behind after its events `e`, field by field. -/
theorem endCommand_initialised (s : State) (e : List ChanEvent) :
    endCommand .ok false (clearPending (setInitialized ((setBitCount 0 s).reached .oscan1 true .idle e))) =
      { afterEvents e s with
        scanFormat := .oscan1, wantResult := true, tapState := .idle, initialized := true
        txBitCount := BitVec.ofNat 32 (cycleCount e)
        physSet := e.foldl physEvent s.physSet
        adapterPending := 0
        results := s.results ++ [⟨.ok, false⟩] } := by
  rw [← BitVec.zero_add (BitVec.ofNat 32 _)]
  rfl

/-- Settles O33, by the events of `set_to_idle()` in the format of the link. -/
theorem setIdleForcesIdle : Obligations.SetIdleForcesIdle := by
  intro s h
  refine ⟨?_, cycleCount_setIdleEvents_normal _ _, cycleCount_setIdleEvents_oscan1 _ _⟩
  rw [exec_setidle, setToIdle_inRange h]
  rfl

/-- Settles O35, by the steps of `OSCAN1` as their events. -/
theorem oscan1SwitchesTheLink : Obligations.Oscan1SwitchesTheLink := by
  intro s h1 h2
  rw [exec_oscan1, enterOscan1_inRange h1 h2]
  rfl

/-- R167: the star-command faults with a part of its symbols sent, before the format is written. -/
theorem twoPart_overRange {o p : Nat} (h : Config.maxBitscan < o ∨ Config.maxBitscan < p) (s : State) :
    ∃ n syms, twoPart o p s = raiseFault .faultNzbsRange n (s.sent syms) := by
  by_cases ho : Config.maxBitscan < o
  · refine ⟨o, [], ?_⟩
    rw [twoPart, nonZeroBitScan_overRange ho, State.sent]
    exact congrArg (raiseFault _ _) (afterEvents_nil s).symm
  · exact ⟨p, nzbsSyms o, twoPart_operand_overRange (Nat.le_of_not_lt ho) (h.resolve_left ho) s⟩

/-- Settles O36: a fault of the star-command stops `OSCAN1` before its switch. -/
theorem oscan1FaultKeepsTheFormat : Obligations.Oscan1FaultKeepsTheFormat := by
  intro s h
  obtain ⟨n, syms, hfault⟩ := twoPart_overRange h s
  refine ⟨_, exec_oscan1 s, ?_⟩
  rw [enterOscan1, hfault]
  exact ⟨rfl, rfl, rfl⟩

/-- Settles O37, by the steps of `E2WTEST` as their events. -/
theorem twoWireTestBringsUpTheLink : Obligations.TwoWireTestBringsUpTheLink := by
  intro s h
  refine ⟨?_, cycleCount_e2wTestEvents _⟩
  rw [exec_e2wtest, enterTwoWireAndTest_inRange h]
  rfl

/-- Settles O38, by the steps of `E2W` as their events. -/
theorem twoWireReentersTheLink : Obligations.TwoWireReentersTheLink := by
  intro s h
  refine ⟨?_, cycleCount_e2wEvents _⟩
  rw [exec_e2w, enterTwoWire_inRange h]
  rfl

/-- Settles O39: the events of R168, the cycle count from 0, and the TAP that the idle string locks into IDLE. -/
theorem initBringsUpTheLink : Obligations.InitBringsUpTheLink := by
  intro s h1 h2
  have hcount := cycleCount_initEvents s.params
  have hrun := initialise_inRange h1 h2
  have hatIdle := initialise_atIdle s
  rw [hrun] at hatIdle
  have hphys : (initEvents s.params).foldl physEvent s.physSet = [.idle] := by
    obtain ⟨-, h⟩ := hatIdle
    rwa [clearPending_physSet, setInitialized_physSet, reached_physSet, setBitCount_physSet] at h
  refine ⟨?_, hcount⟩
  rw [exec_init, hrun, Run.finish_done, endCommand_initialised, hcount, hphys]

end Sys2Proof.Machine
end

section
/-! The transition table as the TAP follows it (30_encoding R99, 43_tap_scan R191, R192). -/

namespace Sys2Proof.Machine

open Sys2Proof.Stated

/-- Settles O45: the ten rows of the table, each followed from its start. -/
theorem tableStringsReachTheirGoals : Obligations.TableStringsReachTheirGoals :=
  have hlongest : (Tap.drPause, Tap.irShift, [true, true, true, true, false, false]) ∈ moveTable := by decide
  ⟨by decide, by decide, ⟨_, hlongest, rfl⟩, rfl⟩

/-- A string that the table has for a pair stands in that pair's row. -/
theorem mem_moveTable_of_moveSyms {a b : Tap} {syms : List Bool} (h : moveSyms a b = some syms) :
    (a, b, syms) ∈ moveTable := by
  obtain ⟨⟨a', b', syms'⟩, hrow, rfl⟩ := Option.map_eq_some_iff.1 h
  have hpair := List.find?_some hrow
  simp only [Bool.and_eq_true, beq_iff_eq] at hpair
  obtain ⟨rfl, rfl⟩ := hpair
  exact List.mem_of_find?_eq_some hrow

theorem tapRun_moveSyms {a b : Tap} {syms : List Bool} (h : moveSyms a b = some syms) : tapRun a syms = b :=
  tableStringsReachTheirGoals.1 _ (mem_moveTable_of_moveSyms h)

/-- A table move takes the TAP where it takes the tracked state; with no row for the pair neither moves (R190). -/
theorem tapRun_moveSyms_getD (a b : Tap) :
    tapRun a ((moveSyms a b).getD []) = if (moveSyms a b).isSome then b else a := by
  cases h : moveSyms a b with
  | none => rfl
  | some syms => exact tapRun_moveSyms h

/-- Only IDLE and the two PAUSE states have strings of more than two symbols. -/
theorem moveSyms_length_le_two {a : Tap} (ha : a ∉ [Tap.idle, .drPause, .irPause]) (b : Tap) :
    ((moveSyms a b).getD []).length ≤ 2 := by
  have hrows : ∀ row ∈ moveTable, row.1 ∉ [Tap.idle, .drPause, .irPause] → row.2.2.length ≤ 2 := by decide
  cases h : moveSyms a b with
  | none => exact Nat.zero_le 2
  | some syms => exact hrows _ (mem_moveTable_of_moveSyms h) ha

end Sys2Proof.Machine
end

section
/-! `TAPMOVE` and `SETTAP` (43_tap_scan R190, R217). -/

namespace Sys2Proof.Machine

open Sys2Proof.Stated

theorem exec_tapmove (goal : Tap) (s : State) :
    exec (.tapmove goal) s = .next (endCommand .ok false (tapMove goal s)) := rfl

theorem exec_settap (x : Tap) (s : State) : exec (.settap x) s = .next (endCommand .ok false (setTapState x s)) := rfl

/-- Settles O44: with a row for the pair its string is sent, and with none the move is no step at all. -/
theorem tapMoveFollowsTheTable : Obligations.TapMoveFollowsTheTable := by
  intro s goal
  rw [exec_tapmove]
  have htable := tapTable_syms s.tapState goal
  cases hstr : tapTable s.tapState goal with
  | none =>
    rw [hstr] at htable
    rw [← htable, tapMove_undefined hstr]
    rfl
  | some str =>
    rw [hstr] at htable
    rw [← htable, tapMove_defined hstr, transitionsDeferred_eq]
    rfl

/-- The checks of R233 that let a command run. -/
theorem admission_run {w : CmdWord} {s : State} {i : Instr} (hfault : s.fault = 0) (hd : decode w = .ok i)
    (hi : (s.initialized || Instr.admittedUninit i) = true) : admission w s = .run i := by
  have hf : s.faulted = false := by simp [State.faulted, hfault]
  simp [admission, hf, hd, hi]

/-- Settles O53: the word decodes to `SETTAP`, which needs no initialised block, and one register is written. -/
theorem setTapWritesTheTrackedState : Obligations.SetTapWritesTheTrackedState := by
  intro s x
  have hdecode : decode (encode (.settap x)) = .ok (.settap x) := decodeOfEncodeIsTheInstruction _ rfl
  exact ⟨rfl, fun hfault => admission_run hfault hdecode (Bool.or_true _), exec_settap x s⟩

end Sys2Proof.Machine
end

section
/-! How a `SCAN` ends, and the cycles of an accepted one (43_tap_scan R200 to R214, R219). -/

namespace Sys2Proof.Machine

open Sys2Proof.Stated

section
variable (ir : Bool) (goal : Tap) (hasOut hasIn : Bool)

theorem exec_scan (numFields n : Nat) (s : State) :
    exec (.scan ir goal hasOut hasIn numFields n) s = execScan ir goal hasOut hasIn numFields n s := rfl

/-- R205, for the longest preamble and postamble and the size of `RX`. -/
theorem scan_oversize_iff (n : Nat) :
    n + Config.maxPreamble + Config.maxPostamble > Config.rxCapacity ↔ 993 ≤ n := by
  unfold Config.maxPreamble Config.maxPostamble Config.rxCapacity
  omega

theorem exec_scan_of_numFields {numFields : Nat} (h : numFields ≠ 1) (n : Nat) (s : State) :
    exec (.scan ir goal hasOut hasIn numFields n) s = .next (reject .rejMultiField numFields s) := by
  rw [exec_scan, execScan, if_pos h]

theorem exec_scan_of_oversize {n : Nat} (h : 993 ≤ n) (s : State) :
    exec (.scan ir goal hasOut hasIn 1 n) s = .next (reject .rejOversize n s) := by
  rw [exec_scan, execScan, if_neg (not_not.2 rfl), if_pos ((scan_oversize_iff n).2 h)]

theorem exec_scan_accepted {n : Nat} (h : n ≤ 992) (s : State) :
    exec (.scan ir goal hasOut hasIn 1 n) s = .next (endCommand .ok false (scanRun ir goal hasOut hasIn n s)) := by
  have hfits : ¬ 993 ≤ n := by omega
  rw [exec_scan, execScan, if_neg (not_not.2 rfl), if_neg (mt (scan_oversize_iff n).1 hfits)]

variable {ir goal hasOut hasIn}

/-- A `SCAN` is rejected with nothing done, or runs its steps (R203 to R205). -/
theorem exec_scan_cases {numFields n : Nat} {s t : State}
    (h : exec (.scan ir goal hasOut hasIn numFields n) s = .next t) :
    (∃ c k, t = reject c k s) ∨
    (numFields = 1 ∧ n ≤ 992 ∧ t = endCommand .ok false (scanRun ir goal hasOut hasIn n s)) := by
  by_cases hfields : numFields = 1
  · subst hfields
    by_cases hsize : n ≤ 992
    · rw [exec_scan_accepted _ _ _ _ hsize] at h
      exact .inr ⟨rfl, hsize, (Host.Outcome.next.inj h).symm⟩
    · rw [exec_scan_of_oversize _ _ _ _ (Nat.not_le.1 hsize)] at h
      exact .inl ⟨_, _, (Host.Outcome.next.inj h).symm⟩
  · rw [exec_scan_of_numFields _ _ _ _ hfields] at h
    exact .inl ⟨_, _, (Host.Outcome.next.inj h).symm⟩

end

/-- Settles O46, by the two checks in their order. -/
theorem scanRejectsBadRequests : Obligations.ScanRejectsBadRequests := by
  intro s ir goal hasOut hasIn numFields n
  refine ⟨fun hfields => exec_scan_of_numFields ir goal hasOut hasIn hfields n s, ?_⟩
  rintro rfl hsize
  exact exec_scan_of_oversize ir goal hasOut hasIn hsize s

/-! ### Preamble and postamble -/

theorem scanPre_length_mem (ir : Bool) (tap : Tap) : (scanPre ir tap).length ∈ [0, 2, 3, 4, 5, 6] := by
  cases ir <;> cases tap <;> decide

/-- A preamble is sent from IDLE and the PAUSE states, whichever shift state the scan needs. -/
theorem tapAfterPre_not_mem (ir : Bool) (tap : Tap) : tapAfterPre ir tap ∉ [Tap.idle, .drPause, .irPause] := by
  cases ir <;> cases tap <;> decide

/-- The postamble starts elsewhere than the long strings of the table, so it has at most two cycles (R192, R210). -/
theorem scanPost_length_mem (ir : Bool) (n : Nat) (goal tap : Tap) : (scanPost ir n goal tap).length ∈ [0, 1, 2] := by
  have hstart : tapAfterPayload ir n tap ∉ [Tap.idle, .drPause, .irPause] := by
    unfold tapAfterPayload
    split
    · exact tapAfterPre_not_mem ir tap
    · cases ir <;> decide
  have hle : (scanPost ir n goal tap).length ≤ 2 := moveSyms_length_le_two hstart goal
  simp only [List.mem_cons, List.not_mem_nil, or_false]
  omega

/-- `tx_bit_count` does not wrap in a scan (10_state R35). -/
theorem scan_bitCount_toNat (ir : Bool) (n : Nat) (goal tap : Tap) :
    (BitVec.ofNat 32 ((scanPre ir tap).length + (scanPost ir n goal tap).length)).toNat =
      (scanPre ir tap).length + (scanPost ir n goal tap).length := by
  have hpre := scanPre_length_le ir tap
  have hpost := scanPost_length_le ir n goal tap
  rw [BitVec.toNat_ofNat, Nat.mod_eq_of_lt (by omega)]

theorem isCycle_of_mem_scanCycles {ir : Bool} {goal : Tap} {hasOut : Bool} {n : Nat} {s : State} {x : ChanEvent}
    (hx : x ∈ scanCycles ir goal hasOut n s) : x.isCycle = true := by
  simp only [scanCycles, deferredEvents, payloadEvents, List.mem_append, List.mem_map] at hx
  obtain (⟨_, -, rfl⟩ | ⟨_, -, rfl⟩) | ⟨_, -, rfl⟩ := hx <;> rfl

theorem scanLength_eq (ir : Bool) (n : Nat) (goal tap : Tap) :
    scanLength ir n goal tap = n + ((scanPre ir tap).length + (scanPost ir n goal tap).length) := by
  unfold scanLength
  omega

/-- Settles O48: the cycles are those of the three parts, and one byte is read for each. -/
theorem scanReadLengthFitsTheBuffer : Obligations.ScanReadLengthFitsTheBuffer := by
  intro s ir goal hasOut hasIn n hn
  have htx := scan_bitCount_toNat ir n goal s.tapState
  refine ⟨_, scanCycles ir goal hasOut n s, exec_scan_accepted ir goal hasOut hasIn hn s, ?_⟩
  rw [cycleCount_scanCycles, endCommand_chan, endCommand_txBitCount, scanRun_eq]
  refine ⟨rfl, fun x hx => isCycle_of_mem_scanCycles hx, ?_, scanLength_le_rxCapacity hn ir goal s.tapState, ?_⟩
  · rw [htx, scanLength_eq]
  · refine ⟨_, _, _, rfl, ?_, ?_, ?_, ?_, ?_, ?_⟩
    all_goals simp only [deferredEvents, payloadEvents, List.length_map, List.length_range]
    · exact htx
    · exact scanPre_length_mem ir s.tapState
    · exact scanPost_length_mem ir n goal s.tapState

/-! ### The answers in `RX` and `IN` -/

/-- Bits written to the front of a buffer, one after the other (20_memory R63). -/
theorem bitOf_foldl_setBit_range (f : Nat → Bool) {m : Memory} (h : m.wf) (n j : Nat) :
    bitOf ((List.range n).foldl (fun m i => m.setBit i (f i)) m) j = if j < n then f j else bitOf m j := by
  induction n with
  | zero => rfl
  | succ n ih =>
    rw [List.range_succ, List.foldl_append, List.foldl_cons, List.foldl_nil, bitOf_setBit (wf_foldl_setBit f _ h), ih]
    by_cases hj : j = n
    · simp [hj]
    · have hlt : j < n + 1 ↔ j < n := by omega
      simp [hj, hlt]

/-- The answers begin with those of the adapter (log entry 5). -/
theorem responses_getElem? {a : List Byte} (d : Nat) {n k : Nat} (hn : k < n) (ha : k < a.length) :
    (responses a d n)[k]? = a[k]? := by
  have htake : k < (a.take n).length := by
    rw [List.length_take]
    omega
  unfold responses
  rw [List.getElem?_append_left htake, List.getElem?_take_of_lt hn]

theorem read_writeList_zero {m : Memory} (h : m.wf) (bs : List Byte) (k : Nat) :
    (m.writeList 0 bs).read k = if k < bs.length then bs.getD k 0 else m.read k := by
  simp [Memory.read_writeList h, unlistedByte]

/-- Settles O47: the state of `scanRun_eq`, with `RX` and `IN` told by what they read. -/
theorem scanRunsItsSevenSteps : Obligations.ScanRunsItsSevenSteps := by
  intro s ir goal hasOut hasIn n hn hrx hinp len pre
  have hlen := responses_length s.adapterIn s.drawn len
  have hread := read_writeList_zero hrx (responses s.adapterIn s.drawn len)
  rw [hlen] at hread
  have hexec := exec_scan_accepted ir goal hasOut hasIn hn s
  rw [scanRun_eq] at hexec
  refine ⟨responses s.adapterIn s.drawn len, _, _, hexec, hlen, fun k hk ha => responses_getElem? _ hk ha, hread,
    ?_, ?_⟩
  · rintro rfl
    rfl
  · rintro rfl i
    rw [if_pos rfl, bitOf_foldl_setBit_range _ hinp]
    by_cases hi : i < n
    · have hk : i + pre < len := by
        show _ < scanLength ir n goal s.tapState
        rw [scanLength_eq]
        omega
      rw [if_pos hi, if_pos hi, hread, if_pos hk]
    · rw [if_neg hi, if_neg hi]

/-- Settles O49, by the bits of `IN` after an accepted scan, whose answers are all the adapter's. -/
theorem scanReconstructsTheResponseBits : Obligations.ScanReconstructsTheResponseBits := by
  intro s ir goal hasOut n x _ hn hrx hinp hlen hx
  obtain ⟨answers, rx, inp, hexec, -, hanswers, -, -, hbits⟩ :=
    scanRunsItsSevenSteps s ir goal hasOut true n hn hrx hinp
  refine ⟨_, hexec, fun i hi => ?_⟩
  have hk : i + (scanPre ir s.tapState).length < scanLength ir n goal s.tapState := by
    rw [scanLength_eq]
    omega
  rw [hbits rfl, if_pos hi, ← hx _ hk, List.getD_eq_getElem?_getD, List.getD_eq_getElem?_getD,
    hanswers _ hk (by omega)]

end Sys2Proof.Machine
end

section
/-! The physical TAP follows the tracked state through a scan that starts where the table can (10_state R39, 43_tap_scan
R191, 70_reset_and_hazards R263 to R265). -/

namespace Sys2Proof.Machine

open Sys2Proof.Stated

/-- The payload holds TMS at 0 and ends with a 1 (43_tap_scan R208). -/
theorem payloadTms_succ (n : Nat) : payloadTms (n + 1) = List.replicate n false ++ [true] := by
  have hzeros : (List.range n).map (fun i => i + 1 == n + 1) = List.replicate n false := by
    refine List.eq_replicate_iff.2 ⟨by simp, fun b hb => ?_⟩
    obtain ⟨i, hi, rfl⟩ := List.mem_map.1 hb
    have hlt : i < n := List.mem_range.1 hi
    simp [hlt.ne]
  rw [payloadTms, List.range_succ, List.map_append, hzeros]
  simp

/-- From the scan's shift state the payload leads to EXIT1 (R209). -/
theorem tapRun_payloadTms_succ (ir : Bool) (n : Nat) : tapRun (scanShift ir) (payloadTms (n + 1)) = scanExit1 ir := by
  have hloop : tapNext (scanShift ir) false = scanShift ir := by cases ir <;> rfl
  rw [payloadTms_succ, tapRun_append, tapRun_replicate_false hloop]
  cases ir <;> rfl

/-- From these states the TAP and the tracked state are both in the shift state after the preamble (R207). -/
theorem scanPre_reaches_shift {ir : Bool} {tap : Tap} (h : tap ∈ [Tap.idle, .drPause, .irPause, scanShift ir]) :
    tapRun tap (scanPre ir tap) = scanShift ir ∧ tapAfterPre ir tap = scanShift ir := by
  simp only [List.mem_cons, List.not_mem_nil, or_false] at h
  obtain rfl | rfl | rfl | rfl := h <;> cases ir <;> decide

/-- Preamble, payload and postamble each take the TAP where they take the tracked state. -/
theorem tapRun_scanTms {ir : Bool} {tap : Tap} (h : tap ∈ [Tap.idle, .drPause, .irPause, scanShift ir]) (goal : Tap)
    (n : Nat) : tapRun tap (scanTms ir goal n tap) = scanEnd ir n goal tap := by
  obtain ⟨hrun, htap⟩ := scanPre_reaches_shift h
  have hpayload : tapRun (scanShift ir) (payloadTms n) = tapAfterPayload ir n tap := by
    cases n with
    | zero => exact htap.symm
    | succ n => exact tapRun_payloadTms_succ ir n
  rw [scanTms, tapRun_append, tapRun_append, hrun, hpayload]
  exact tapRun_moveSyms_getD _ goal

theorem scanRun_synchronised {s : State} {ir : Bool} (hs : s.Synchronised)
    (htap : s.tapState ∈ [Tap.idle, .drPause, .irPause, scanShift ir]) (goal : Tap) (hasOut hasIn : Bool) (n : Nat) :
    (scanRun ir goal hasOut hasIn n s).Synchronised := by
  rw [scanRun_eq]
  show physRun s.physSet _ = [scanEnd ir n goal s.tapState]
  rw [hs, physRun_singleton, tapRun_scanTms htap]

/-- Settles O50: a rejected scan moves nothing, and the cycles of an accepted one lead where the table says. -/
theorem scanKeepsTheTapSynchronised : Obligations.ScanKeepsTheTapSynchronised := by
  intro s t ir goal hasOut hasIn numFields n hs htap h
  obtain ⟨c, k, rfl⟩ | ⟨-, -, rfl⟩ := exec_scan_cases h
  · exact hs
  · exact scanRun_synchronised hs htap goal hasOut hasIn n

end Sys2Proof.Machine
end

section
/-! The step when nothing waits, when a fault is recorded and when the block is not initialised (60_exceptions R233,
R237, R247). -/

namespace Sys2Proof.Machine

theorem step_of_no_request {s : State} (hport : s.cmdPort = []) : step s = .next s := by
  simp only [step, hport, idle]

/-- R233, first check: with a fault recorded the request is taken and refused. -/
theorem step_of_faulted {s : State} {r : Request} {rest : List Request} (hport : s.cmdPort = r :: rest)
    (hfault : s.fault ≠ 0) : step s = .next (refuse .refusedFaulted (s.accept r rest)) := by
  have hf : (s.accept r rest).faulted = true := bne_iff_ne.2 hfault
  simp only [step, hport, admission, hf, if_true]

/-- R233, third check: before `INIT` has completed a command is refused, unless it is `INIT` or `SETTAP`. -/
theorem step_of_uninit {s : State} {r : Request} {rest : List Request} {i : Instr} (hport : s.cmdPort = r :: rest)
    (hfault : s.fault = 0) (hd : decode r.word = .ok i) (hi : (s.initialized || Instr.admittedUninit i) = false) :
    step s = .next (refuse .refusedUninit (s.accept r rest)) := by
  have hf := accept_faulted r rest hfault
  have hi' : ((s.accept r rest).initialized || Instr.admittedUninit i) = false := hi
  simp only [step, hport, admission, hf, hd, hi', Bool.false_eq_true, if_false]

theorem admittedUninit_iff (i : Instr) : Instr.admittedUninit i = true ↔ i = .init ∨ ∃ t, i = .settap t := by
  cases i <;> simp [Instr.admittedUninit]

theorem core_run_succ {s t : State} (h : step s = .next t) (k : Nat) :
    Sys2Proof.core.run (k + 1) s = Sys2Proof.core.run k t := by
  have hstep : Sys2Proof.core.step s = .next t := h
  simp only [Host.Core.run, hstep]

/-- Settles O10, by induction on the number of steps: each step keeps the fault, takes one request if one waits, and
adds its refusal. -/
theorem nothingRunsAfterAFault : Obligations.NothingRunsAfterAFault := by
  intro k
  induction k with
  | zero =>
    intro s _
    exact ⟨s, rfl, ⟨rfl, rfl, rfl, rfl, rfl, rfl, rfl⟩, rfl, rfl, by simp⟩
  | succ k ih =>
    intro s hfault
    cases hport : s.cmdPort with
    | nil =>
      have hrest := ih s hfault
      rw [core_run_succ (step_of_no_request hport)]
      simpa only [hport, List.length_nil, Nat.min_zero] using hrest
    | cons r rest =>
      obtain ⟨t, hrun, hregs, hchan, hlog, hresults⟩ := ih (refuse .refusedFaulted (s.accept r rest)) hfault
      refine ⟨t, ?_, hregs, hchan, hlog, ?_⟩
      · rw [core_run_succ (step_of_faulted hport hfault), hrun]
      · calc t.results
            = (s.results ++ [⟨.refusedFaulted, false⟩])
                ++ List.replicate (min k rest.length) ⟨.refusedFaulted, false⟩ := hresults
          _ = s.results ++ List.replicate (min (k + 1) (r :: rest).length) ⟨.refusedFaulted, false⟩ := by
            rw [List.length_cons, Nat.succ_min_succ, List.replicate_succ, List.append_assoc, List.singleton_append]

/-- Settles O9, one lemma for each check and O7 for the commands that pass them all. -/
theorem admissionChecksInOrder : Obligations.AdmissionChecksInOrder := by
  intro s r rest hport
  refine ⟨fun hfault => step_of_faulted hport hfault, fun hfault hill => ?_, fun i hfault hd hinit hne hnt => ?_,
    fun i hfault hd hadmit => stepRunsTheDecodedCommand s r rest i hport hfault hd hadmit⟩
  · exact step_of_not_decodable hport hfault (not_exists.2 hill)
  · have hi : Instr.admittedUninit i = false :=
      Bool.eq_false_iff.2 fun h => ((admittedUninit_iff i).1 h).elim hne (not_exists.2 hnt)
    exact step_of_uninit hport hfault hd (by rw [hinit, hi]; rfl)

/-- Settles O8: the step idles. -/
theorem noCommandLeavesTheState : Obligations.NoCommandLeavesTheState := fun _ => step_of_no_request

end Sys2Proof.Machine
end

section
/-! The four outcomes of a command (60_exceptions R230), with what each leaves as it was. -/

namespace Sys2Proof.Machine

open Sys2Proof.Stated

/-- What the steps of a command, its end apart, do to the ports: the channel grows, and nothing else is written. -/
structure Progress (s u : State) : Prop where
  log : u.log = s.log
  fault : u.fault = s.fault
  results : u.results = s.results
  chan : ∃ emitted, u.chan = s.chan ++ emitted

theorem Progress.refl (s : State) : Progress s s := ⟨rfl, rfl, rfl, [], (List.append_nil _).symm⟩

theorem Progress.append {s u v : State} (h : Progress s u) (hlog : v.log = u.log) (hfault : v.fault = u.fault)
    (hresults : v.results = u.results) {e : List ChanEvent} (hchan : v.chan = u.chan ++ e) : Progress s v := by
  obtain ⟨emitted, hu⟩ := h.chan
  exact ⟨hlog.trans h.log, hfault.trans h.fault, hresults.trans h.results, emitted ++ e,
    by rw [hchan, hu, List.append_assoc]⟩

theorem progress_closed (s : State) : Closed (Progress s) where
  emit _ _ h := h.append rfl rfl rfl rfl
  afterRead _ _ h := h.append rfl rfl rfl rfl
  setScanFormat _ _ h := ⟨h.log, h.fault, h.results, h.chan⟩
  setWantResult _ _ h := ⟨h.log, h.fault, h.results, h.chan⟩
  setBitCount _ _ h := ⟨h.log, h.fault, h.results, h.chan⟩
  setTapState _ _ h := ⟨h.log, h.fault, h.results, h.chan⟩
  setInitialized _ h := ⟨h.log, h.fault, h.results, h.chan⟩
  clearPending _ h := ⟨h.log, h.fault, h.results, h.chan⟩

theorem scanRun_progress (ir : Bool) (goal : Tap) (hasOut hasIn : Bool) (n : Nat) (s : State) :
    Progress s (scanRun ir goal hasOut hasIn n s) := by
  rw [scanRun_eq]
  exact (Progress.refl s).append rfl rfl rfl (List.append_assoc _ _ _)

/-- A command that takes a fault is no `SCAN`, so it leaves `RX` and `IN` as they were (20_memory R60). -/
theorem exec_rx_inp_of_fault {i : Instr} {s t : State} (h : exec i s = .next t) (hfault : t.fault ≠ s.fault) :
    t.rx = s.rx ∧ t.inp = s.inp := by
  refine (exec_keepsStorage h).2 ?_
  rintro ir goal ho hi nf n rfl
  exact hfault (exec_fault_of_not_writesFault rfl h)

/-- The row of R230 for the outcome that `code` reports, of a command taken in `s` that ends in `t`. -/
structure EndsAs (s t : State) (code : ResultCode) : Prop where
  result : ∃ v, t.results = s.results ++ [⟨code, v⟩]
  completed : code.kind = .completed → t.log = s.log ∧ t.fault = s.fault
  rejected : code.kind = .rejected → ∃ info, t = reject code info s
  faulted : code.kind = .faulted → (∃ info, t.log = s.log ++ [⟨code, info⟩]) ∧ t.fault = code.toByte ∧
    (∃ emitted, t.chan = s.chan ++ emitted) ∧ t.rx = s.rx ∧ t.inp = s.inp
  refused : code.kind = .refused → t = refuse code s

theorem endsAs_refuse {code : ResultCode} (hk : code.kind = .refused) (s : State) :
    EndsAs s (refuse code s) code where
  result := ⟨false, rfl⟩
  completed h := nomatch hk.symm.trans h
  rejected h := nomatch hk.symm.trans h
  faulted h := nomatch hk.symm.trans h
  refused _ := rfl

theorem endsAs_reject {code : ResultCode} (hk : code.kind = .rejected) (info : Nat) (s : State) :
    EndsAs s (reject code info s) code where
  result := ⟨false, rfl⟩
  completed h := nomatch hk.symm.trans h
  rejected _ := ⟨info, rfl⟩
  faulted h := nomatch hk.symm.trans h
  refused h := nomatch hk.symm.trans h

theorem endsAs_completed {s u : State} (h : Progress s u) (v : Bool) : EndsAs s (endCommand .ok v u) .ok where
  result := ⟨v, congrArg (· ++ _) h.results⟩
  completed _ := ⟨h.log, h.fault⟩
  rejected := nofun
  faulted := nofun
  refused := nofun

theorem endsAs_faulted {s u : State} {code : ResultCode} (hk : code.kind = .faulted) (info : Nat) (h : Progress s u)
    (hmem : u.rx = s.rx ∧ u.inp = s.inp) :
    EndsAs s (endCommand code false (logEntry code info (setFault code u))) code where
  result := ⟨false, congrArg (· ++ _) h.results⟩
  completed h := nomatch hk.symm.trans h
  rejected h := nomatch hk.symm.trans h
  faulted _ := ⟨⟨info, congrArg (· ++ _) h.log⟩, rfl, h.chan, hmem⟩
  refused h := nomatch hk.symm.trans h

/-- Every command run with no fault recorded ends in an outcome of R230. -/
theorem exec_endsAs (i : Instr) {s : State} (hfault : s.fault = 0) :
    ∃ t code, exec i s = .next t ∧ EndsAs s t code := by
  obtain ⟨t, ht, hend⟩ := (progress_closed s).exec i (.refl s)
    fun ir goal ho hi _ n _ _ => scanRun_progress ir goal ho hi n s
  cases hend with
  | completed u hu => exact ⟨_, .ok, ht, endsAs_completed hu _⟩
  | rejected c k hc => exact ⟨_, c, ht, endsAs_reject hc k s⟩
  | faulted u c k hc hu =>
    obtain ⟨hkind, hcode⟩ : c.kind = .faulted ∧ c.toByte ≠ 0 := by
      obtain rfl | rfl := hc <;> exact ⟨rfl, by decide⟩
    have hmem := exec_rx_inp_of_fault ht (hfault ▸ hcode)
    exact ⟨_, c, ht, endsAs_faulted hkind k hu hmem⟩

/-- Every step that takes a request ends it in an outcome of R230: at admission, or as the command does. -/
theorem step_endsAs {s : State} {r : Request} {rest : List Request} (hport : s.cmdPort = r :: rest) :
    ∃ t code, step s = .next t ∧ EndsAs (s.accept r rest) t code := by
  by_cases hfault : s.fault = 0
  · by_cases hdec : ∃ i, decode r.word = .ok i
    · obtain ⟨i, hd⟩ := hdec
      cases hi : s.initialized || Instr.admittedUninit i with
      | true =>
        rw [step_of_admitted hport hfault hd hi]
        exact exec_endsAs i hfault
      | false => exact ⟨_, _, step_of_uninit hport hfault hd hi, endsAs_refuse rfl _⟩
    · exact ⟨_, _, step_of_not_decodable hport hfault hdec, endsAs_reject rfl _ _⟩
  · exact ⟨_, _, step_of_faulted hport hfault, endsAs_refuse rfl _⟩

/-- Settles O11, by the row of the outcome the step ends in. -/
theorem everyCommandEndsInOneOfFourOutcomes : Obligations.EveryCommandEndsInOneOfFourOutcomes := by
  intro s r rest hport
  obtain ⟨t, code, hstep, hend⟩ := step_endsAs hport
  obtain ⟨v, hresult⟩ := hend.result
  exact ⟨t, code, v, hstep, hresult, hend.completed, hend.rejected, hend.faulted, hend.refused⟩

end Sys2Proof.Machine
end

section
/-! The faults of the bit-scans and of the bring-up commands (60_exceptions R232, R236). -/

namespace Sys2Proof.Machine

open Sys2Proof.Stated

theorem enterControlMode_overRange {l : Nat} (h : Config.maxBitscan < l) (s : State) :
    enterControlMode l s = raiseFault .faultZbsRange l s := by
  rw [enterControlMode, zeroBitScan_overRange h]
  rfl

theorem twoPart_opcode_overRange {o : Nat} (h : Config.maxBitscan < o) (p : Nat) (s : State) :
    twoPart o p s = raiseFault .faultNzbsRange o s := by
  rw [twoPart, nonZeroBitScan_overRange h]
  rfl

/-- Settles O26: each command checks its first count before it sends anything. -/
theorem bitScanCountAboveTenFaults : Obligations.BitScanCountAboveTenFaults := by
  intro s n h
  refine ⟨?_, ?_, ?_, fun p => ?_⟩
  · rw [exec_zbs, zeroBitScan_overRange h]
    rfl
  · rw [exec_nzbs, nonZeroBitScan_overRange h]
    rfl
  · rw [exec_ecm, enterControlMode_overRange h]
    rfl
  · rw [exec_twopart, twoPart_opcode_overRange h]
    rfl

/-! ### The bring-up commands -/

/-- The count a piece checks. -/
def checkedCount : Piece → Option Nat
  | .send _ => none
  | .check n _ => some n

/-- A course stops at the first count above 10 among those its pieces check. -/
theorem upToFault_count (ps : List Piece) :
    (upToFault ps).2.map Prod.fst = (ps.filterMap checkedCount).find? (10 < ·) := by
  induction ps with
  | nil => rfl
  | cons p ps ih =>
    cases p with
    | send e => exact ih
    | check n fmt =>
      have hcons : (Piece.check n fmt :: ps).filterMap checkedCount = n :: ps.filterMap checkedCount := rfl
      rw [hcons, upToFault]
      by_cases h : 10 < n
      · simp [h]
      · simp [h, ih]

/-- The checks of a bring-up command are of the counts the parameters give its bit-scans, in program order. -/
theorem checkedCount_bringUpPieces (p : Config.Params) (fmt : ScanFormat) (wr : Bool) (i : Instr) :
    (bringUpPieces p fmt wr i).filterMap checkedCount = bringUpCounts p fmt i := by
  cases i <;> cases fmt <;> rfl

theorem follows_of_none {s : State} {wrF wr : Bool} {tap : Tap} {fmt : ScanFormat} {ps : List Piece}
    (h : (upToFault ps).2 = none) :
    follows s wrF tap [] fmt wr ps = .done (s.reached fmt wr tap (upToFault ps).1) := by
  rw [follows, h]
  rfl

theorem follows_of_some {s : State} {wrF wr : Bool} {tap : Tap} {fmt f : ScanFormat} {ps : List Piece} {n : Nat}
    (h : (upToFault ps).2 = some (n, f)) :
    follows s wrF tap [] fmt wr ps = raiseFault .faultNzbsRange n (s.reached f wrF tap (upToFault ps).1) := by
  rw [follows, h]
  rfl

/-- The state whose `tx_bit_count` a bring-up command's cycles are added to: `INIT` sets it to 0 (42_mode R165). -/
def bringUpStart (i : Instr) (s : State) : State :=
  { s with txBitCount := if i = .init then 0 else s.txBitCount }

/-- What a bring-up command writes after its last event: `INIT` alone does (R168; log entry 10). -/
def bringUpEnd (i : Instr) (t : State) : State :=
  { t with
    initialized := i == .init || t.initialized
    adapterPending := if i = .init then 0 else t.adapterPending }

theorem Run.andDo_id (r : Run) : r.andDo id = r := by cases r <;> rfl

/-- Every bring-up command is the run of its pieces. At a fault `want_result` is 0 and `tap_state` IDLE, which `OSCAN1`
alone does not write (R238). -/
theorem exec_bringUp {i : Instr} (hi : i ∈ [Instr.oscan1, .setidle, .e2w, .e2wtest, .init]) (s : State) :
    ∃ fmt wr v, exec i s = .next (((follows (bringUpStart i s) (if i = .oscan1 then s.wantResult else false)
      (if i = .oscan1 then s.tapState else .idle) [] fmt wr
      (bringUpPieces s.params s.scanFormat s.wantResult i)).andDo (bringUpEnd i)).finish v) := by
  simp only [List.mem_cons, List.not_mem_nil, or_false] at hi
  obtain rfl | rfl | rfl | rfl | rfl := hi
  · refine ⟨.oscan1, s.wantResult, false, ?_⟩
    rw [exec_oscan1, enterOscan1_run, ← Run.andDo_id (follows ..)]
    rfl
  · refine ⟨s.scanFormat, s.wantResult, false, ?_⟩
    rw [exec_setidle, setToIdle_run, ← Run.andDo_id (follows ..)]
    rfl
  · refine ⟨.oscan1, s.wantResult, false, ?_⟩
    rw [exec_e2w, enterTwoWire_run, ← Run.andDo_id (follows ..)]
    rfl
  · refine ⟨.oscan1, s.wantResult, true, ?_⟩
    rw [exec_e2wtest, enterTwoWireAndTest_run, ← Run.andDo_id (follows ..)]
    rfl
  · refine ⟨.oscan1, true, false, ?_⟩
    rw [exec_init, initialise_follows]
    rfl

/-- Settles O41: a bring-up command follows its pieces, to the check of the first count above 10 or to their end. -/
theorem bringUpFaultsOnTheFirstBadParameter : Obligations.BringUpFaultsOnTheFirstBadParameter := by
  intro s i hi course
  obtain ⟨fmt, wr, v, hexec⟩ := exec_bringUp hi s
  refine ⟨?_, fun hnone => ?_, fun n f hsome => ?_⟩
  · rw [upToFault_count, checkedCount_bringUpPieces]
  · rw [follows_of_none hnone] at hexec
    exact ⟨_, hexec, rfl, rfl, rfl, v, rfl⟩
  · rw [hexec, follows_of_some hsome]
    rfl

end Sys2Proof.Machine
end

section
/-! Hazards of the TAP: the idle string from an unknown state (70_reset_and_hazards R271), and a scan that starts where
the table has no preamble (R263). -/

namespace Sys2Proof.Machine

open Sys2Proof.Stated

/-- The five ones of the idle string lead to Test-Logic-Reset from every state (R271). -/
theorem reset_mem_tapTrace_idleSyms (t : Tap) : Tap.reset ∈ tapTrace t idleSyms := by cases t <;> decide

/-- Settles O43: each state is followed through the string, and a set through its members. -/
theorem idleStringPassesTestLogicReset : Obligations.IdleStringPassesTestLogicReset :=
  ⟨fun t => ⟨reset_mem_tapTrace_idleSyms t, tapRun_idleSyms t⟩, fun _ => physRun_idleSyms⟩

/-- The table has no string to the shift state from elsewhere than IDLE and the PAUSE states (43_tap_scan R207). -/
theorem scanPre_of_not_mem {ir : Bool} {tap : Tap} (h : tap ∉ [Tap.idle, .drPause, .irPause, scanShift ir]) :
    scanPre ir tap = [] := by
  revert h
  cases ir <;> cases tap <;> decide

/-- Settles O51: with no preamble the cycles are the payload's and those of the postamble, which starts in EXIT1. -/
theorem scanFromElsewhereShiftsWhereItIs : Obligations.ScanFromElsewhereShiftsWhereItIs := by
  intro s ir goal hasOut hasIn n hpos hn htap
  have hpre := scanPre_of_not_mem htap
  have hexit : tapAfterPayload ir n s.tapState = scanExit1 ir := if_neg (Nat.one_le_iff_ne_zero.1 hpos)
  refine ⟨_, exec_scan_accepted ir goal hasOut hasIn hn s, ?_, ?_⟩
  · simp [scanRun_eq, scanCycles, scanLength, scanPost, hpre, hexit, deferredEvents]
  · simp [scanRun_eq, scanEnd, hexit]

end Sys2Proof.Machine
end

section
/-! Response bytes left pending, and the reads they misalign (10_state R41, 70_reset_and_hazards R266). -/

namespace Sys2Proof.Machine

open Sys2Proof.Stated

/-- Two states with one channel: its events, the bytes pending on it and the records of misaligned reads. -/
structure SameChannel (u v : State) : Prop where
  chan : v.chan = u.chan
  adapterPending : v.adapterPending = u.adapterPending
  chanMisaligned : v.chanMisaligned = u.chanMisaligned
  countMisaligned : v.countMisaligned = u.countMisaligned

theorem SameChannel.afterEvents {u v : State} (h : SameChannel u v) (e : List ChanEvent) :
    SameChannel (afterEvents e u) (afterEvents e v) where
  chan := congrArg (· ++ e) h.chan
  adapterPending := h.adapterPending
  chanMisaligned := by
    show (v.chanMisaligned || _) = (u.chanMisaligned || _)
    rw [h.chanMisaligned, h.adapterPending]
  countMisaligned := h.countMisaligned

/-- From `s` to `u` every response byte was read with the cycle it answers, no read being of zero bytes. -/
def AnsweredAtOnce (s u : State) : Prop := ∃ e, ChanEvent.read 0 ∉ e ∧ SameChannel (afterEvents e s) u

theorem AnsweredAtOnce.refl (s : State) : AnsweredAtOnce s s :=
  ⟨[], List.not_mem_nil, by rw [afterEvents_nil]; exact ⟨rfl, rfl, rfl, rfl⟩⟩

theorem AnsweredAtOnce.afterEvents {s u : State} (h : AnsweredAtOnce s u) {f : List ChanEvent}
    (hf : ChanEvent.read 0 ∉ f) : AnsweredAtOnce s (afterEvents f u) := by
  obtain ⟨e, he, hu⟩ := h
  exact ⟨e ++ f, List.not_mem_append he hf, by rw [afterEvents_append]; exact hu.afterEvents f⟩

theorem AnsweredAtOnce.congr {s u v : State} (h : AnsweredAtOnce s u) (hv : SameChannel u v) : AnsweredAtOnce s v := by
  obtain ⟨e, he, hu⟩ := h
  exact ⟨e, he, hv.chan.trans hu.chan, hv.adapterPending.trans hu.adapterPending,
    hv.chanMisaligned.trans hu.chanMisaligned, hv.countMisaligned.trans hu.countMisaligned⟩

/-- A token that answers no byte leaves none to read. -/
theorem AnsweredAtOnce.emit {s u : State} (h : AnsweredAtOnce s u) {t : Token} (ht : t.responses = 0) :
    AnsweredAtOnce s (emit t u) := by
  refine (h.afterEvents (f := [.write t]) (by simp)).congr ⟨rfl, by rw [emit_adapterPending, ht]; rfl, ?_, rfl⟩
  simp [Machine.afterEvents, readCount, ChanEvent.bytesRead]

theorem AnsweredAtOnce.pinInit {s u : State} (h : AnsweredAtOnce s u) : AnsweredAtOnce s (pinInit u) := by
  rw [pinInit_eq]
  refine (h.afterEvents (f := [.write .pinInit, .read 1]) (by simp)).congr ⟨rfl, rfl, ?_, rfl⟩
  simp [Machine.afterEvents, readCount, ChanEvent.bytesRead]

/-! ### The events that read at once -/

@[simp] theorem read_zero_not_mem_immediateEvents (fmt : ScanFormat) (wr : Bool) (syms : List Bool) :
    ChanEvent.read 0 ∉ immediateEvents fmt wr syms := by
  simp [immediateEvents]

@[simp] theorem read_zero_not_mem_checkEvents (fmt : ScanFormat) (wr : Bool) :
    ChanEvent.read 0 ∉ checkEvents fmt wr := by
  cases fmt <;> simp [checkEvents]

theorem mem_upToFault {x : ChanEvent} {ps : List Piece} (h : x ∈ (upToFault ps).1) :
    ∃ e, Piece.send e ∈ ps ∧ x ∈ e := by
  induction ps with
  | nil => cases h
  | cons p ps ih =>
    have hrest (h : x ∈ (upToFault ps).1) : ∃ e, Piece.send e ∈ p :: ps ∧ x ∈ e :=
      let ⟨e, hps, hx⟩ := ih h
      ⟨e, List.mem_cons_of_mem _ hps, hx⟩
    cases p with
    | send e => exact (List.mem_append.1 h).elim (fun hx => ⟨e, List.mem_cons_self, hx⟩) hrest
    | check n fmt =>
      rw [upToFault] at h
      split at h
      · cases h
      · exact hrest h

/-- The reads that the pieces make, if any, are not of zero bytes. -/
def ReadsSome (ps : List Piece) : Prop := ∀ e, Piece.send e ∈ ps → ChanEvent.read 0 ∉ e

theorem ReadsSome.append {ps qs : List Piece} (hp : ReadsSome ps) (hq : ReadsSome qs) : ReadsSome (ps ++ qs) :=
  fun e he => (List.mem_append.1 he).elim (hp e) (hq e)

theorem ReadsSome.upToFault {ps : List Piece} (h : ReadsSome ps) : ChanEvent.read 0 ∉ (upToFault ps).1 := fun hx =>
  let ⟨e, he, hmem⟩ := mem_upToFault hx
  h e he hmem

theorem readsSome_twoPartPieces (fmt : ScanFormat) (wr : Bool) (o p : Nat) : ReadsSome (twoPartPieces fmt wr o p) := by
  cases fmt <;> simp [ReadsSome, twoPartPieces, nzbsPieces]

theorem readsSome_oscan1Pieces (p : Config.Params) (fmt : ScanFormat) (wr : Bool) :
    ReadsSome (oscan1Pieces p fmt wr) := by
  refine (readsSome_twoPartPieces _ _ _ _).append ?_
  cases fmt <;> cases p.oscan1Switch <;> simp [ReadsSome]

theorem readsSome_twoWirePieces (p : Config.Params) (fmt : ScanFormat) : ReadsSome (twoWirePieces p fmt) := by
  refine ((ReadsSome.append ?_ (readsSome_oscan1Pieces _ _ _)).append (readsSome_twoPartPieces _ _ _ _)).append ?_
  · simp [ReadsSome]
  · cases p.e2wTouch <;> simp [ReadsSome]

theorem readsSome_setIdlePieces (p : Config.Params) (fmt : ScanFormat) (wr : Bool) :
    ReadsSome (setIdlePieces p fmt wr) := by
  cases fmt with
  | normal => simp [ReadsSome, setIdlePieces]
  | oscan1 =>
    refine ReadsSome.append ?_ (readsSome_twoWirePieces _ _)
    simp [ReadsSome]

theorem readsSome_twoWireTestPieces (p : Config.Params) (fmt : ScanFormat) : ReadsSome (twoWireTestPieces p fmt) := by
  refine (((readsSome_setIdlePieces _ _ _).append ?_).append (readsSome_oscan1Pieces _ _ _)).append ?_
  all_goals simp [ReadsSome]

theorem readsSome_bringUpPieces {i : Instr} (hi : i ∈ [Instr.oscan1, .setidle, .e2w, .e2wtest, .init])
    (p : Config.Params) (fmt : ScanFormat) (wr : Bool) : ReadsSome (bringUpPieces p fmt wr i) := by
  simp only [List.mem_cons, List.not_mem_nil, or_false] at hi
  obtain rfl | rfl | rfl | rfl | rfl := hi
  · exact readsSome_oscan1Pieces _ _ _
  · exact readsSome_setIdlePieces _ _ _
  · exact (readsSome_setIdlePieces _ _ _).append (readsSome_twoWirePieces _ _)
  · exact readsSome_twoWireTestPieces _ _
  · refine ReadsSome.append ?_ (readsSome_twoWireTestPieces _ _)
    simp [ReadsSome]

/-! ### How each command uses the channel -/

theorem answeredAtOnce_bitScanClosed (s : State) : BitScanClosed (AnsweredAtOnce s) where
  transitions str u _ h := by
    rw [transitionsImmediate_eq]
    exact h.afterEvents (read_zero_not_mem_immediateEvents _ _ _)
  emitCheck _ _ h := h.emit rfl

theorem answeredAtOnce_finish {s : State} {r : Run} (h : r.Holds (AnsweredAtOnce s)) (v : Bool) :
    AnsweredAtOnce s (r.finish v) :=
  h.finish_of_stable (fun _ _ _ h => h.congr ⟨rfl, rfl, rfl, rfl⟩) (fun _ _ _ h => h.congr ⟨rfl, rfl, rfl, rfl⟩) v

/-- The state `t` after a command run from `s`, by its use of the channel: every byte read at once, with `INIT` alone
dropping what was pending before (log entry 10), a cycle or a table move whose bytes stay pending, or an accepted scan. -/
inductive ChannelUse (s : State) : Instr → State → Prop where
  | answered {i : Instr} {t : State} : AnsweredAtOnce s t → ChannelUse s i t
  | cleared {t : State} : AnsweredAtOnce s t → ChannelUse s .init (clearPending t)
  | cycle (tms tdi : Bool) : ChannelUse s (.cycle tms tdi) (endCommand .ok false (emitCycle tms tdi s))
  | tapmove (goal : Tap) : ChannelUse s (.tapmove goal) (endCommand .ok false (tapMove goal s))
  | scan (ir : Bool) (goal : Tap) (hasOut hasIn : Bool) {n : Nat} : n ≤ 992 →
    ChannelUse s (.scan ir goal hasOut hasIn 1 n) (endCommand .ok false (scanRun ir goal hasOut hasIn n s))

/-- A result touches nothing of the channel. -/
theorem AnsweredAtOnce.endCommand {s u : State} (h : AnsweredAtOnce s u) (c : ResultCode) (v : Bool) :
    AnsweredAtOnce s (endCommand c v u) := h.congr ⟨rfl, rfl, rfl, rfl⟩

theorem answeredAtOnce_reject (c : ResultCode) (k : Nat) (s : State) : AnsweredAtOnce s (reject c k s) :=
  (AnsweredAtOnce.refl s).congr ⟨rfl, rfl, rfl, rfl⟩

theorem answeredAtOnce_formatSwitch (f : ScanFormat) (s : State) : AnsweredAtOnce s (formatSwitch f s) := by
  unfold formatSwitch
  split
  · exact .refl s
  · exact ((AnsweredAtOnce.refl s).emit (t := .fsw f) rfl).congr ⟨rfl, rfl, rfl, rfl⟩

theorem exec_trans_answeredAtOnce {len : Nat} {s t : State} (h : exec (.trans len) s = .next t) :
    AnsweredAtOnce s t := by
  rw [exec_trans, execTrans] at h
  cases h
  split
  · exact answeredAtOnce_reject ..
  · rw [transitionsImmediate_eq]
    exact ((AnsweredAtOnce.refl s).afterEvents (read_zero_not_mem_immediateEvents _ _ _)).endCommand _ _

theorem exec_bringUp_channelUse {i : Instr} (hi : i ∈ [Instr.oscan1, .setidle, .e2w, .e2wtest, .init]) {s t : State}
    (h : exec i s = .next t) : ChannelUse s i t := by
  obtain ⟨fmt, wr, v, hexec⟩ := exec_bringUp hi s
  have hreads := (readsSome_bringUpPieces hi s.params s.scanFormat s.wantResult).upToFault
  generalize bringUpPieces s.params s.scanFormat s.wantResult i = ps at hexec hreads
  cases hfault : (upToFault ps).2 with
  | none =>
    rw [follows_of_none hfault] at hexec
    cases h.symm.trans hexec
    generalize hu : State.reached _ _ _ _ _ = u
    have hsent : AnsweredAtOnce s u := hu ▸ ⟨_, hreads, rfl, rfl, rfl, rfl⟩
    by_cases hinit : i = .init
    · subst hinit
      exact .cleared ((hsent.congr (v := setInitialized u) ⟨rfl, rfl, rfl, rfl⟩).endCommand .ok v)
    · exact .answered ((hsent.congr (v := bringUpEnd i u) ⟨rfl, if_neg hinit, rfl, rfl⟩).endCommand .ok v)
  | some c =>
    rw [follows_of_some hfault] at hexec
    cases h.symm.trans hexec
    exact .answered ⟨_, hreads, rfl, rfl, rfl, rfl⟩

/-- What a command can do with the channel, said once. -/
theorem exec_channelUse {i : Instr} {s t : State} (h : exec i s = .next t) : ChannelUse s i t := by
  have hclosed := answeredAtOnce_bitScanClosed s
  have hs := AnsweredAtOnce.refl s
  cases i with
  | cycle tms tdi => cases h; exact .cycle tms tdi
  | tapmove goal => cases h; exact .tapmove goal
  | scan ir goal hasOut hasIn numFields n =>
    obtain ⟨c, k, rfl⟩ | ⟨rfl, hn, rfl⟩ := exec_scan_cases h
    · exact .answered (answeredAtOnce_reject c k s)
    · exact .scan ir goal hasOut hasIn hn
  | pininit => cases h; exact .answered (hs.pinInit.endCommand _ _)
  | escape => cases h; exact .answered ((hs.emit (t := .esc) rfl).endCommand _ _)
  | fmtsw f => cases h; exact .answered ((answeredAtOnce_formatSwitch f s).endCommand _ _)
  | check => cases h; exact .answered ((hclosed.checkPacket hs).endCommand _ _)
  | wantres v => cases h; exact .answered (hs.congr ⟨rfl, rfl, rfl, rfl⟩)
  | settap x => cases h; exact .answered (hs.congr ⟨rfl, rfl, rfl, rfl⟩)
  | trans len => exact .answered (exec_trans_answeredAtOnce h)
  | zbs r => cases h; exact .answered (answeredAtOnce_finish (hclosed.zeroBitScan r hs) _)
  | nzbs a => cases h; exact .answered (answeredAtOnce_finish (hclosed.nonZeroBitScan a hs) _)
  | ecm l => cases h; exact .answered (answeredAtOnce_finish (hclosed.enterControlMode l hs) _)
  | twopart o p => cases h; exact .answered (answeredAtOnce_finish (hclosed.twoPart o p hs) _)
  | oscan1 => exact exec_bringUp_channelUse (by simp) h
  | setidle => exact exec_bringUp_channelUse (by simp) h
  | e2w => exact exec_bringUp_channelUse (by simp) h
  | e2wtest => exact exec_bringUp_channelUse (by simp) h
  | init => exact exec_bringUp_channelUse (by simp) h

/-! ### The records of misaligned reads -/

/-- The events since `s` set `chan_misaligned` exactly when a read is among them and bytes were pending before. -/
def FlagsReads (s t : State) : Prop :=
  ∃ e, t.chan = s.chan ++ e ∧
    (t.chanMisaligned = true ↔ s.chanMisaligned = true ∨ s.adapterPending ≠ 0 ∧ ∃ n, ChanEvent.read n ∈ e)

/-- Without reads of zero bytes, bytes are read exactly when a read is made. -/
theorem readCount_ne_zero_iff {e : List ChanEvent} (h : ChanEvent.read 0 ∉ e) :
    readCount e ≠ 0 ↔ ∃ n, ChanEvent.read n ∈ e := by
  have hsum : readCount e ≠ 0 ↔ ∃ x ∈ e, x.bytesRead ≠ 0 := by simp [readCount, List.sum_eq_zero_iff]
  rw [hsum]
  constructor
  · rintro ⟨x, hx, hne⟩
    cases x with
    | write t => exact absurd rfl hne
    | read n => exact ⟨n, hx⟩
  · rintro ⟨n, hn⟩
    exact ⟨_, hn, fun (hz : n = 0) => h (hz ▸ hn)⟩

theorem AnsweredAtOnce.flagsReads {s t : State} (h : AnsweredAtOnce s t) : FlagsReads s t := by
  obtain ⟨e, he, ht⟩ := h
  refine ⟨e, ht.chan, ?_⟩
  rw [ht.chanMisaligned, ← readCount_ne_zero_iff he]
  simp [Machine.afterEvents]

theorem flagsReads_of_writes {s t : State} {e : List ChanEvent} (hchan : t.chan = s.chan ++ e)
    (he : ∀ n, ChanEvent.read n ∉ e) (hflag : t.chanMisaligned = s.chanMisaligned) : FlagsReads s t :=
  ⟨e, hchan, by simp [hflag, he]⟩

theorem read_not_mem_deferredEvents (fmt : ScanFormat) (wr : Bool) (syms : List Bool) (n : Nat) :
    ChanEvent.read n ∉ deferredEvents fmt wr syms := by
  simp [deferredEvents]

theorem exec_flagsReads {i : Instr} {s t : State} (h : exec i s = .next t) : FlagsReads s t := by
  cases exec_channelUse h with
  | answered ht => exact ht.flagsReads
  | cleared ht => exact ht.flagsReads
  | cycle tms tdi => exact flagsReads_of_writes rfl (by simp) rfl
  | tapmove goal =>
    rw [tapMove_eq]
    exact flagsReads_of_writes rfl (read_not_mem_deferredEvents _ _ _) rfl
  | scan ir goal hasOut hasIn hn =>
    rw [scanRun_eq]
    refine ⟨_, List.append_assoc _ _ _, ?_⟩
    simp

theorem exec_chanMisaligned_iff {i : Instr} {s t : State} {e : List ChanEvent} (h : exec i s = .next t)
    (hchan : t.chan = s.chan ++ e) :
    t.chanMisaligned = true ↔ s.chanMisaligned = true ∨ s.adapterPending ≠ 0 ∧ ∃ n, ChanEvent.read n ∈ e := by
  obtain ⟨e', hchan', hiff⟩ := exec_flagsReads h
  rwa [List.append_cancel_left (hchan.symm.trans hchan')]

theorem AnsweredAtOnce.aligned {s t : State} (h : AnsweredAtOnce s t) (hs : s.Aligned) : t.Aligned := by
  obtain ⟨e, -, hchan, hpending, hflag, hcount⟩ := h
  obtain ⟨hs0, hsflag, hscount⟩ := hs
  refine ⟨hpending.trans hs0, ?_, hcount.trans hscount⟩
  rw [hflag]
  simp [Machine.afterEvents, hs0, hsflag]

theorem scanRun_flags (ir : Bool) (goal : Tap) (hasOut hasIn : Bool) (n : Nat) (s : State) :
    (scanRun ir goal hasOut hasIn n s).adapterPending = s.adapterPending ∧
    (scanRun ir goal hasOut hasIn n s).chanMisaligned = (s.chanMisaligned || s.adapterPending != 0) ∧
    (scanRun ir goal hasOut hasIn n s).countMisaligned = (s.countMisaligned || s.adapterPending != 0) := by
  rw [scanRun_eq]
  exact ⟨rfl, rfl, rfl⟩

theorem scanRun_aligned (ir : Bool) (goal : Tap) (hasOut hasIn : Bool) (n : Nat) {s : State} (hs : s.Aligned) :
    (scanRun ir goal hasOut hasIn n s).Aligned := by
  obtain ⟨hpending, hflag, hcount⟩ := scanRun_flags ir goal hasOut hasIn n s
  obtain ⟨hs0, hsflag, hscount⟩ := hs
  refine ⟨hpending.trans hs0, ?_, ?_⟩
  · rw [hflag, hs0, hsflag]
    rfl
  · rw [hcount, hs0, hscount]
    rfl

theorem exec_aligned {i : Instr} {s t : State} (hcycle : ∀ a b, i ≠ .cycle a b) (htapmove : ∀ g, i ≠ .tapmove g)
    (hs : s.Aligned) (h : exec i s = .next t) : t.Aligned := by
  cases exec_channelUse h with
  | answered ht => exact ht.aligned hs
  | cleared ht => exact ⟨rfl, (ht.aligned hs).2⟩
  | cycle tms tdi => exact absurd rfl (hcycle tms tdi)
  | tapmove goal => exact absurd rfl (htapmove goal)
  | scan ir goal hasOut hasIn hn => exact scanRun_aligned ir goal hasOut hasIn _ hs

theorem exec_countMisaligned {i : Instr} {s t : State} (hscan : ∀ ir goal ho hi nf n, i ≠ .scan ir goal ho hi nf n)
    (h : exec i s = .next t) : t.countMisaligned = s.countMisaligned := by
  cases exec_channelUse h with
  | answered ht => obtain ⟨_, _, ht⟩ := ht; exact ht.countMisaligned
  | cleared ht => obtain ⟨_, _, ht⟩ := ht; exact ht.countMisaligned
  | cycle tms tdi => rfl
  | tapmove goal => rw [tapMove_eq]; rfl
  | scan ir goal hasOut hasIn hn => exact absurd rfl (hscan ir goal hasOut hasIn 1 _)

/-- Settles O52, by the use each command makes of the channel. -/
theorem onlyCycleAndTapMoveLeaveBytesPending : Obligations.OnlyCycleAndTapMoveLeaveBytesPending := by
  refine ⟨fun s t i => exec_aligned, fun s t i e n hpending h hchan hread => ?_, fun s t i e h hchan hquiet => ?_,
    fun s t i => exec_countMisaligned, fun s t ir goal hasOut hasIn n hn h => ?_⟩
  · exact (exec_chanMisaligned_iff h hchan).2 (.inr ⟨hpending, n, hread⟩)
  · have hnot : ¬ (s.adapterPending ≠ 0 ∧ ∃ n, ChanEvent.read n ∈ e) := fun ⟨hne, n, hread⟩ =>
      hquiet.elim hne fun hno => hno n hread
    rw [Bool.eq_iff_iff, exec_chanMisaligned_iff h hchan, or_iff_left hnot]
  · cases h.symm.trans (exec_scan_accepted ir goal hasOut hasIn hn s)
    exact (scanRun_flags ir goal hasOut hasIn n s).2

end Sys2Proof.Machine
end
